-- ==== Sys2Proof/Word.lean ====
section
/-! DEFINITION. The word types of the block (00_scope.md R5, FIXED rows, and R8). -/

namespace Sys2Proof

/-- One byte of the serial bus: the unit of `exchangeByte` (20_memory.md R35). -/
abbrev Byte := BitVec 8

/-- A packet (frame): `FRAME_BITS = 24`, opcode in bits 23:20, payload in bits 19:0 (30_encoding.md R45). -/
abbrev Packet := BitVec 24

/-- The opcode field: `OPC_BITS = 4`. -/
abbrev Opcode := BitVec 4

/-- The payload field: `PAYLOAD_BITS = 20`. -/
abbrev Payload := BitVec 20

/-- A signed 16-bit output value as its two's-complement pattern: `DATA_BITS = 16` (00_scope.md R8). -/
abbrev Value16 := BitVec 16

/-- A signed 32-bit position as its two's-complement pattern (10_state.md R23). -/
abbrev Position32 := BitVec 32

end Sys2Proof
end

