-- ==== Sys2Proof/Config.lean ====
section
/-! DEFINITION. The parameters of 00_scope.md R5 and the free values of R6.

The parameters are plain data carried by State as one constant field, so that a statement over all states holds for
every parameter value (log 1). The free values are opaque: nothing in Lean can evaluate one. -/

namespace Sys2Proof

/-- The seven fields of the control register, in the document's order (10_state.md R12). -/
inductive CtrlField where
  /-- clear-target-voltage -/
  | cv
  /-- overrange-enable -/
  | ovr
  /-- bipolar-coding-mode -/
  | b2c
  /-- thermal-shutdown-enable -/
  | ets
  /-- internal-reference-enable -/
  | iro
  /-- power-up-voltage -/
  | pv
  /-- output-voltage-range -/
  | ra
  deriving DecidableEq, Repr

/-- All seven, most significant first in the default layout. -/
def CtrlField.all : List CtrlField := [.cv, .ovr, .b2c, .ets, .iro, .pv, .ra]

/-- A value for each of the seven fields. The width of a field is the layout's, a parameter, so a value is held in the
20 bits of the payload and `CtrlFields.Fits` says that it is no wider than its field. -/
structure CtrlFields where
  cv : Payload
  ovr : Payload
  b2c : Payload
  ets : Payload
  iro : Payload
  pv : Payload
  ra : Payload
  deriving DecidableEq, Repr

/-- The value of one field. -/
def CtrlFields.get (f : CtrlFields) : CtrlField → Payload
  | .cv => f.cv
  | .ovr => f.ovr
  | .b2c => f.b2c
  | .ets => f.ets
  | .iro => f.iro
  | .pv => f.pv
  | .ra => f.ra

/-- Where a field stands in the payload: bits `lsb + width - 1` down to `lsb`. -/
structure FieldPos where
  lsb : Nat
  width : Nat
  deriving DecidableEq, Repr

/-- `CTRL_LAYOUT`: bit position and width of each of the seven fields (00_scope.md R5). -/
structure CtrlLayout where
  cv : FieldPos
  ovr : FieldPos
  b2c : FieldPos
  ets : FieldPos
  iro : FieldPos
  pv : FieldPos
  ra : FieldPos
  deriving DecidableEq, Repr

/-- The position of one field. -/
def CtrlLayout.get (l : CtrlLayout) : CtrlField → FieldPos
  | .cv => l.cv
  | .ovr => l.ovr
  | .b2c => l.b2c
  | .ets => l.ets
  | .iro => l.iro
  | .pv => l.pv
  | .ra => l.ra

/-- Two fields share no bit. -/
abbrev FieldPos.Disjoint (a b : FieldPos) : Prop :=
  a.lsb + a.width ≤ b.lsb ∨ b.lsb + b.width ≤ a.lsb

/-- The constraint of R5: fields pairwise disjoint, all inside payload[19:0]. -/
abbrev CtrlLayout.Wf (l : CtrlLayout) : Prop :=
  (CtrlField.all.Pairwise fun a b => (l.get a).Disjoint (l.get b)) ∧
  ∀ a ∈ CtrlField.all, (l.get a).lsb + (l.get a).width ≤ 20

/-- Every value is no wider than its field: "operands are typed to width" (40_encoder.md R60). -/
abbrev CtrlFields.Fits (f : CtrlFields) (l : CtrlLayout) : Prop :=
  ∀ a ∈ CtrlField.all, (f.get a).toNat < 2 ^ (l.get a).width

/-- The default layout of 30_encoding.md R50. -/
def CtrlLayout.standard : CtrlLayout :=
  { cv := ⟨9, 2⟩, ovr := ⟨8, 1⟩, b2c := ⟨7, 1⟩, ets := ⟨6, 1⟩, iro := ⟨5, 1⟩, pv := ⟨3, 2⟩, ra := ⟨0, 3⟩ }

/-- Codes of `CV` and `PV` (30_encoding.md R51). -/
inductive Scale where
  | zero
  | mid
  /-- `0b10`; `0b11` means full-scale as well. -/
  | full
  deriving DecidableEq, Repr

/-- The code of a scale target (R51). -/
def Scale.code : Scale → Payload
  | .zero => 0b00
  | .mid => 0b01
  | .full => 0b10

/-- Output ranges, in the order of their codes (R51). -/
inductive OutputRange where
  | minus10to10
  | zeroTo10
  | minus5to5
  | zeroTo5
  | minus2point5to7point5
  | minus3to3
  | zeroTo16
  | zeroTo20
  deriving DecidableEq, Repr

/-- The code of an output range in `RA` (R51). -/
def OutputRange.code : OutputRange → Payload
  | .minus10to10 => 0b000
  | .zeroTo10 => 0b001
  | .minus5to5 => 0b010
  | .zeroTo5 => 0b011
  | .minus2point5to7point5 => 0b100
  | .minus3to3 => 0b101
  | .zeroTo16 => 0b110
  | .zeroTo20 => 0b111

/-- The code of a one-bit field: disabled or off 0, enabled or on 1; for `B2C`, two's complement 1 (R51). -/
def enableCode (b : Bool) : Payload := if b then 1 else 0

/-- `CTRL_DEFAULT` under the default codes (30_encoding.md R52): zero-scale targets, overrange disabled,
two's-complement coding, thermal shutdown and internal reference enabled, range -10 V to +10 V. -/
def CtrlFields.standard : CtrlFields :=
  { cv := Scale.zero.code, ovr := enableCode false, b2c := enableCode true, ets := enableCode true,
    iro := enableCode true, pv := Scale.zero.code, ra := OutputRange.minus10to10.code }

/-- `INIT_FANOUT`, a function of `COUNT`, as plain data (log 21). -/
inductive Fanout where
  /-- The default: `COUNT` packets. -/
  | perModule
  /-- The same number for every `COUNT`. -/
  | constant (n : Nat)
  /-- Any function on `0 .. CAP`: entry `COUNT` of the list. -/
  | table (l : List Nat)
  deriving DecidableEq, Repr

/-- `INIT_FANOUT(COUNT)`. -/
def Fanout.packets : Fanout → Nat → Nat
  | .perModule, count => count
  | .constant n, _ => n
  | .table l, count => l.getD count count

/-- The parameters of 00_scope.md R5 (the FIXED ones are widths of types). -/
structure Config where
  /-- `OPC_WRITE_CTRL` -/
  opcWriteCtrl : Opcode
  /-- `OPC_SOFT_RESET` -/
  opcSoftReset : Opcode
  /-- `OPC_WRITE_UPDATE` -/
  opcWriteUpdate : Opcode
  /-- `CTRL_LAYOUT` -/
  layout : CtrlLayout
  /-- `CTRL_DEFAULT` -/
  ctrlDefault : CtrlFields
  /-- `SOFT_RESET_PAYLOAD` -/
  softResetPayload : Payload
  /-- `DUMMY_BYTE` -/
  dummyByte : Byte
  /-- `BUS_CLOCK_HZ`, a maximum; `none` is "not given" (log 3). No rule depends on it. -/
  busClockHz : Option Nat
  /-- `CPOL`: the idle level of the bus clock; `none` is "not given" (log 3). -/
  cpol : Option Bool
  /-- `CPHA`: which clock edge samples; `none` is "not given" (log 3). -/
  cpha : Option Bool
  /-- `SEL_ACTIVE_LEVEL`; `none` is "not given" (log 3). -/
  selActiveLevel : Option Bool
  /-- `AMP_ON_LEVEL`; `none` is "not given" (log 3). -/
  ampOnLevel : Option Bool
  /-- `LED_ON_LEVEL`; `none` is "not given" (log 3). -/
  ledOnLevel : Option Bool
  /-- `CAP` -/
  cap : Nat
  /-- `INIT_FANOUT` -/
  initFanout : Fanout
  /-- `THRESH[j]` for `j < NBTN`; its length is `NBTN`. -/
  thresh : List Nat
  deriving DecidableEq, Repr

/-- `NBTN`: the number of buttons. -/
def Config.nbtn (c : Config) : Nat := c.thresh.length

/-- A table gives a number for every `COUNT` from 0 to `CAP`. -/
abbrev Fanout.Wf (f : Fanout) (cap : Nat) : Prop :=
  match f with
  | .table l => cap < l.length
  | _ => True

/-- The constraints of the third column of R5. -/
structure Config.Wf (c : Config) : Prop where
  /-- The three opcodes are pairwise distinct. -/
  opcodes : c.opcWriteCtrl ≠ c.opcSoftReset ∧ c.opcWriteCtrl ≠ c.opcWriteUpdate ∧ c.opcSoftReset ≠ c.opcWriteUpdate
  /-- Fields disjoint, inside the payload. -/
  layout : c.layout.Wf
  /-- Each default value fits its field. -/
  ctrlDefault : c.ctrlDefault.Fits c.layout
  /-- The clock rate, where given, is positive. -/
  busClock : c.busClockHz ≠ some 0
  /-- `CAP >= 1`. -/
  cap : 1 ≤ c.cap
  /-- The fan-out is defined for every `COUNT`. -/
  initFanout : c.initFanout.Wf c.cap

/-- The defaults of R5. `THRESH` has no default there: the two buttons are those of the example of
44_board_io.md R99, DESIGN CHOICE (log 2). The opcodes, the layout and the field codes are the spec's own defaults,
which it takes from general knowledge (93_implementation_defined.md G1 to G3; log 1). -/
def Config.default : Config :=
  { opcWriteCtrl := 0x4
    opcSoftReset := 0xF
    opcWriteUpdate := 0x3
    layout := .standard
    ctrlDefault := .standard
    softResetPayload := 0x00000
    dummyByte := 0x00
    busClockHz := none
    cpol := none
    cpha := none
    selActiveLevel := none
    ampOnLevel := none
    ledOnLevel := none
    cap := 6
    initFanout := .perModule
    thresh := [500, 500] }

/-- The bus peer's `n`-th free answer (00_scope.md R6(3); 93_implementation_defined.md U5): a free value (log 4). -/
opaque Config.freeByte (n : Nat) : Byte

/-- The `n`-th free answer to a module's `step()` (R6(4); U11): a free value (log 4). -/
opaque Config.freeStep (n : Nat) : Value16

/-- The `n`-th free answer to a module's `getLastPosition()` (R6(4); U11): a free value (log 4). -/
opaque Config.freePosition (n : Nat) : Position32

/-- The `n`-th free magnitude of a sense input (R6(5); U11): a free value (log 4). -/
opaque Config.freeMagnitude (n : Nat) : Nat

end Sys2Proof
end

