-- ==== Sys2Proof/Syntax.lean ====
section
/-! DEFINITION. The instruction set: one constructor per row of spec/opcode_table.json (00_scope.md R1): the three
wire packets and the nineteen host operations of 30_encoding.md R58. -/

namespace Sys2Proof

/-- An instruction. Where the table's spelling is a word of Lean or of the host's list, the constructor has a longer
name (`openTransaction` for `open`); LAWS.json maps each to its mnemonic. -/
inductive Instr where
  /-- `WRCTRL cv, ovr, b2c, ets, iro, pv, ra` (R57): the control packet with those field values. -/
  | wrctrl (fields : CtrlFields)
  /-- `SWRST` (R57): the software-reset packet. -/
  | swrst
  /-- `WRUPD v` (R57): the write-and-update packet of a signed 16-bit value. -/
  | wrupd (value : Value16)
  /-- 0x01 `buildControlWord(fields)` -/
  | buildControlWord (fields : CtrlFields)
  /-- 0x02 `encodeSetOutput(value)` -/
  | encodeSetOutput (value : Value16)
  /-- 0x03 `transfer(packet)` -/
  | transfer (packet : Packet)
  /-- 0x04 `sendControlRegister()` -/
  | sendControlRegister
  /-- 0x05 `softReset()` -/
  | softReset
  /-- 0x06 `setOutput(value)` -/
  | setOutput (value : Value16)
  /-- 0x07 device teardown -/
  | deviceTeardown
  /-- 0x08 `open()` -/
  | openTransaction
  /-- 0x09 `close()` -/
  | closeTransaction
  /-- 0x10 `initialize()` -/
  | initializeBoard
  /-- 0x11 `register(position)` -/
  | registerModule (position : Nat)
  /-- 0x12 `stepControlCycle()` -/
  | stepControlCycle
  /-- 0x13 `setOutputs(values)` -/
  | setOutputs (values : List Value16)
  /-- 0x14 `enableAllAmps()` -/
  | enableAllAmps
  /-- 0x15 `disableAllAmps()` -/
  | disableAllAmps
  /-- 0x16 `setLed(position, state)` -/
  | setLed (position : Nat) (state : Bool)
  /-- 0x17 `readButtons()` -/
  | readButtons
  /-- 0x18 `isPressed(role)` -/
  | isPressed (role : Nat)
  /-- 0x19 registry teardown -/
  | registryTeardown
  deriving DecidableEq, Repr

end Sys2Proof
end

