-- ==== Sys2Proof/WellFormed.lean ====
section
/-! DEFINITION. Which instructions have words.

A `WRCTRL` frame has the table's field widths (30_encoding.md R50); a position, a role and a list of values have no
bound in the spec, and the bounds below are those of the model's request encoding (log 5). -/

namespace Sys2Proof

/-- The instruction can be written in the encoding of Decode.lean. -/
abbrev WellFormed (i : Instr) : Prop :=
  match i with
  | .wrctrl fields => fields.Fits .standard
  | .swrst => True
  | .wrupd _ => True
  | .buildControlWord _ => True
  | .encodeSetOutput _ => True
  | .transfer _ => True
  | .sendControlRegister => True
  | .softReset => True
  | .setOutput _ => True
  | .deviceTeardown => True
  | .openTransaction => True
  | .closeTransaction => True
  | .initializeBoard => True
  | .registerModule position => position < 2 ^ 32
  | .stepControlCycle => True
  | .setOutputs values => values.length < 2 ^ 16
  | .enableAllAmps => True
  | .disableAllAmps => True
  | .setLed position _ => position < 2 ^ 32
  | .readButtons => True
  | .isPressed role => role < 2 ^ 32
  | .registryTeardown => True

end Sys2Proof
end

