-- ==== Sys2Proof/Decode.lean ====
section
/-! DEFINITION. The bytes of a call at the host port, and what they mean: the decoder, total on any bytes, and after it
the encoder.

The spec gives the host interface no binary encoding (91_not_in_source.md N22). A wire packet is requested by its frame
as spec/opcode_table.json gives it, first transmit byte first (20_memory.md R31); a host operation by its selector of
30_encoding.md R58 and then its arguments, each most significant byte first: DESIGN CHOICE (log 5). The numbers of a
request are the table's, fixed; the packet that is sent is built from the configuration (log 7). -/

namespace Sys2Proof

/-- Why bytes at the host port are no call. -/
inductive DecodeError where
  /-- There is no byte. -/
  | empty
  /-- The first byte is neither a selector of R58 nor the opcode byte of one of the three packets. -/
  | unknownSelector (sel : Byte)
  /-- A frame with one of the three opcodes sets a payload bit that its row of the table has at 0. -/
  | reservedPayload (frame : Packet)
  /-- The arguments are cut off. -/
  | truncated
  /-- A field value of more than 20 bits, or a boolean that is neither 0 nor 1. -/
  | badOperand
  deriving DecidableEq, Repr

/-- What reading from a list of bytes gives: a value and the bytes left, or an error. -/
inductive Parsed (α : Type) where
  | ok (val : α) (rest : List Byte)
  | error (e : DecodeError)
  deriving DecidableEq, Repr

/-- Read on with the value and the bytes left. -/
def Parsed.andThen {α β : Type} (p : Parsed α) (f : α → List Byte → Parsed β) : Parsed β :=
  match p with
  | .ok v rest => f v rest
  | .error e => .error e

/-- Change the value read. -/
def Parsed.map {α β : Type} (p : Parsed α) (f : α → β) : Parsed β :=
  match p with
  | .ok v rest => .ok (f v) rest
  | .error e => .error e

/-- Two bytes, most significant first. -/
def takeU16 (bs : List Byte) : Parsed (BitVec 16) :=
  match bs with
  | b1 :: b0 :: rest => .ok (b1 ++ b0) rest
  | _ => .error .truncated

/-- Three bytes, most significant first. -/
def takeU24 (bs : List Byte) : Parsed (BitVec 24) :=
  match bs with
  | b2 :: b1 :: b0 :: rest => .ok (b2 ++ b1 ++ b0) rest
  | _ => .error .truncated

/-- Four bytes, most significant first. -/
def takeU32 (bs : List Byte) : Parsed (BitVec 32) :=
  match bs with
  | b3 :: b2 :: b1 :: b0 :: rest => .ok (b3 ++ b2 ++ b1 ++ b0) rest
  | _ => .error .truncated

/-- A position or a role: four bytes read as a natural number. -/
def takeIndex (bs : List Byte) : Parsed Nat :=
  (takeU32 bs).map BitVec.toNat

/-- A boolean: one byte, 0 or 1. -/
def takeBool (bs : List Byte) : Parsed Bool :=
  match bs with
  | [] => .error .truncated
  | b :: rest => if b = 0 then .ok false rest else if b = 1 then .ok true rest else .error .badOperand

/-- A control-field value: three bytes that hold at most 20 bits. -/
def takeField (bs : List Byte) : Parsed Payload :=
  (takeU24 bs).andThen fun w rest =>
    if w.extractLsb' 20 4 = 0 then .ok (w.extractLsb' 0 20) rest else .error .badOperand

/-- The seven field values, in the order of the operation's arguments. -/
def takeFields (bs : List Byte) : Parsed CtrlFields :=
  (takeField bs).andThen fun cv bs =>
  (takeField bs).andThen fun ovr bs =>
  (takeField bs).andThen fun b2c bs =>
  (takeField bs).andThen fun ets bs =>
  (takeField bs).andThen fun iro bs =>
  (takeField bs).andThen fun pv bs =>
  (takeField bs).andThen fun ra bs =>
  .ok ⟨cv, ovr, b2c, ets, iro, pv, ra⟩ bs

/-- `n` values of two bytes each. -/
def takeValueList (n : Nat) (bs : List Byte) : Parsed (List Value16) :=
  match n with
  | 0 => .ok [] bs
  | n + 1 =>
    (takeU16 bs).andThen fun v bs =>
    (takeValueList n bs).map (v :: ·)

/-- A list of values: its length in two bytes, then the values. -/
def takeValues (bs : List Byte) : Parsed (List Value16) :=
  (takeU16 bs).andThen fun n bs => takeValueList n.toNat bs

/-- `WRCTRL`: bits 19:11 are 0, the fields at their default positions (30_encoding.md R50). -/
def decodeWrctrl (w : Packet) (rest : List Byte) : Parsed Instr :=
  if w.extractLsb' 11 9 = 0 then
    .ok (.wrctrl
      { cv := (w.extractLsb' 9 2).setWidth 20
        ovr := (w.extractLsb' 8 1).setWidth 20
        b2c := (w.extractLsb' 7 1).setWidth 20
        ets := (w.extractLsb' 6 1).setWidth 20
        iro := (w.extractLsb' 5 1).setWidth 20
        pv := (w.extractLsb' 3 2).setWidth 20
        ra := (w.extractLsb' 0 3).setWidth 20 }) rest
  else .error (.reservedPayload w)

/-- `SWRST`: the payload is 0 (R53). -/
def decodeSwrst (w : Packet) (rest : List Byte) : Parsed Instr :=
  if w.extractLsb' 0 20 = 0 then .ok .swrst rest else .error (.reservedPayload w)

/-- `WRUPD`: bits 19:16 are 0, the value in bits 15:0 (R48). -/
def decodeWrupd (w : Packet) (rest : List Byte) : Parsed Instr :=
  if w.extractLsb' 16 4 = 0 then .ok (.wrupd (w.extractLsb' 0 16)) rest else .error (.reservedPayload w)

/-- A host operation, by its selector (R58). -/
def decodeOperation (sel : Byte) (rest : List Byte) : Parsed Instr :=
  match sel.toNat with
  | 0x01 => (takeFields rest).map .buildControlWord
  | 0x02 => (takeU16 rest).map .encodeSetOutput
  | 0x03 => (takeU24 rest).map .transfer
  | 0x04 => .ok .sendControlRegister rest
  | 0x05 => .ok .softReset rest
  | 0x06 => (takeU16 rest).map .setOutput
  | 0x07 => .ok .deviceTeardown rest
  | 0x08 => .ok .openTransaction rest
  | 0x09 => .ok .closeTransaction rest
  | 0x10 => .ok .initializeBoard rest
  | 0x11 => (takeIndex rest).map .registerModule
  | 0x12 => .ok .stepControlCycle rest
  | 0x13 => (takeValues rest).map .setOutputs
  | 0x14 => .ok .enableAllAmps rest
  | 0x15 => .ok .disableAllAmps rest
  | 0x16 => (takeIndex rest).andThen fun p bs => (takeBool bs).map (.setLed p)
  | 0x17 => .ok .readButtons rest
  | 0x18 => (takeIndex rest).map .isPressed
  | 0x19 => .ok .registryTeardown rest
  | _ => .error (.unknownSelector sel)

/-- The decoder: the call at the front of the bytes and the bytes after it. A byte whose high nibble is one of the
three opcodes of the table starts a frame; every other byte is looked up among the selectors. -/
def decode (bs : List Byte) : Parsed Instr :=
  match bs with
  | [] => .error .empty
  | b :: rest =>
    if b.extractLsb' 4 4 = 0x4 then (takeU24 bs).andThen decodeWrctrl
    else if b.extractLsb' 4 4 = 0xF then (takeU24 bs).andThen decodeSwrst
    else if b.extractLsb' 4 4 = 0x3 then (takeU24 bs).andThen decodeWrupd
    else decodeOperation b rest

/-! ## The encoder -/

/-- Two bytes, most significant first. -/
def bytesU16 (v : BitVec 16) : List Byte := [v.extractLsb' 8 8, v.extractLsb' 0 8]

/-- Three bytes, most significant first. -/
def bytesU24 (v : BitVec 24) : List Byte := [v.extractLsb' 16 8, v.extractLsb' 8 8, v.extractLsb' 0 8]

/-- Four bytes, most significant first. -/
def bytesU32 (v : BitVec 32) : List Byte :=
  [v.extractLsb' 24 8, v.extractLsb' 16 8, v.extractLsb' 8 8, v.extractLsb' 0 8]

/-- A position or a role in four bytes. -/
def bytesIndex (n : Nat) : List Byte := bytesU32 (BitVec.ofNat 32 n)

/-- A boolean in one byte. -/
def bytesBool (b : Bool) : List Byte := [if b then 1 else 0]

/-- The seven field values, three bytes each. -/
def bytesFields (f : CtrlFields) : List Byte :=
  CtrlField.all.flatMap fun a => bytesU24 ((f.get a).setWidth 24)

/-- A list of values: its length, then the values. -/
def bytesValues (vs : List Value16) : List Byte :=
  bytesU16 (BitVec.ofNat 16 vs.length) ++ vs.flatMap bytesU16

/-- The frame of `WRCTRL` with the table's numbers (30_encoding.md R49, R50). -/
def wrctrlFrame (f : CtrlFields) : Packet :=
  (0x4#4 ++ 0#9 ++ f.cv.setWidth 2 ++ f.ovr.setWidth 1 ++ f.b2c.setWidth 1 ++ f.ets.setWidth 1 ++ f.iro.setWidth 1
    ++ f.pv.setWidth 2 ++ f.ra.setWidth 3)

/-- The bytes of a call. -/
def encode (i : Instr) : List Byte :=
  match i with
  | .wrctrl fields => bytesU24 (wrctrlFrame fields)
  | .swrst => bytesU24 0xF00000
  | .wrupd value => bytesU24 (0x30#8 ++ value)
  | .buildControlWord fields => 0x01 :: bytesFields fields
  | .encodeSetOutput value => 0x02 :: bytesU16 value
  | .transfer packet => 0x03 :: bytesU24 packet
  | .sendControlRegister => [0x04]
  | .softReset => [0x05]
  | .setOutput value => 0x06 :: bytesU16 value
  | .deviceTeardown => [0x07]
  | .openTransaction => [0x08]
  | .closeTransaction => [0x09]
  | .initializeBoard => [0x10]
  | .registerModule position => 0x11 :: bytesIndex position
  | .stepControlCycle => [0x12]
  | .setOutputs values => 0x13 :: bytesValues values
  | .enableAllAmps => [0x14]
  | .disableAllAmps => [0x15]
  | .setLed position state => 0x16 :: (bytesIndex position ++ bytesBool state)
  | .readButtons => [0x17]
  | .isPressed role => 0x18 :: bytesIndex role
  | .registryTeardown => [0x19]

/-! ## A word of the table -/

/-- The bytes of a number of `n` bytes, most significant first. -/
def bytesOfNat (n w : Nat) : List Byte :=
  match n with
  | 0 => []
  | n + 1 => BitVec.ofNat 8 (w >>> (8 * n)) :: bytesOfNat n w

/-- A word of the table laid out as the host port holds it: its bytes, most significant first, and then zeros for every
argument the table gives no bits (the longest call with such arguments has 22 bytes: `buildControlWord`). -/
def tableBytes (nbits w : Nat) : List Byte := bytesOfNat (nbits / 8) w ++ List.replicate 32 0

/-- The instruction the decoder reads from a word numbered as the table numbers it. -/
def decodeTableWord (nbits w : Nat) : Option Instr :=
  match decode (tableBytes nbits w) with
  | .ok i _ => some i
  | .error _ => none

/-- The bytes of that instruction and no more; where the decoder refuses the word, all of them. -/
def tableCall (nbits w : Nat) : List Byte :=
  match decode (tableBytes nbits w) with
  | .ok _ rest => (tableBytes nbits w).take ((tableBytes nbits w).length - rest.length)
  | .error _ => tableBytes nbits w

end Sys2Proof
end

