-- ==== Sys2Proof/Machine/Encoder.lean ====
section
/-! DEFINITION. The packet encoder (40_encoder.md R60 to R65): functions from values to 24-bit packets and back. None
touches state. -/

namespace Sys2Proof.Machine

/-- The frame of an opcode and a payload: `(zext_24(opcode) << 20) | zext_24(payload)` (30_encoding.md R45). -/
def frame (opcode : Opcode) (payload : Payload) : Packet :=
  (opcode.setWidth 24 <<< 20) ||| payload.setWidth 24

/-- A field value at its place in the frame: `zext_24(v) << lsb` (R60). -/
def placeField (value : Payload) (pos : FieldPos) : Packet :=
  value.setWidth 24 <<< pos.lsb

/-- `buildControlWord(fields)`: the opcode and the seven field values, OR-combined (R60, R54). -/
def buildControlWord (c : Config) (f : CtrlFields) : Packet :=
  (c.opcWriteCtrl.setWidth 24 <<< 20)
    ||| placeField f.cv c.layout.cv
    ||| placeField f.ovr c.layout.ovr
    ||| placeField f.b2c c.layout.b2c
    ||| placeField f.ets c.layout.ets
    ||| placeField f.iro c.layout.iro
    ||| placeField f.pv c.layout.pv
    ||| placeField f.ra c.layout.ra

/-- `extract(w, F) = (w >> lsb(F)) & (2^n - 1)` (R61): a function of the spec for stating the round trip. -/
def extractField (w : Packet) (pos : FieldPos) : Packet :=
  (w >>> pos.lsb) &&& BitVec.ofNat 24 (2 ^ pos.width - 1)

/-- `u16(v)`: the two's-complement pattern of a signed 16-bit integer (00_scope.md R8). -/
def u16 (v : Int) : Value16 := BitVec.ofInt 16 v

/-- `s16(b)`: `b` if `b < 32768`, else `b - 65536` (00_scope.md R8). -/
def s16 (b : Value16) : Int := if b.toNat < 32768 then b.toNat else (b.toNat : Int) - 65536

/-- `encodeSetOutput(value)`: the value is zero-extended, never sign-extended past bit 15 (R62). The argument is the
pattern `u16(value)`. -/
def encodeSetOutput (c : Config) (value : Value16) : Packet :=
  (c.opcWriteUpdate.setWidth 24 <<< 20) ||| value.setWidth 24

/-- `decodeSetOutput(w) = s16(w[15:0])` (R63): a function of the spec for stating the round trip. -/
def decodeSetOutput (w : Packet) : Int := s16 (w.extractLsb' 0 16)

/-- `resetWord()` (R64). -/
def resetWord (c : Config) : Packet := frame c.opcSoftReset c.softResetPayload

/-- `toBytes(w) = [(w >> 16) & 0xFF, (w >> 8) & 0xFF, w & 0xFF]` (R65). -/
def toBytes (w : Packet) : Byte × Byte × Byte :=
  (((w >>> 16) &&& 0xFF).setWidth 8, ((w >>> 8) &&& 0xFF).setWidth 8, (w &&& 0xFF).setWidth 8)

/-- `fromBytes([b0, b1, b2]) = (b0 << 16) | (b1 << 8) | b2` (R65). -/
def fromBytes (b0 b1 b2 : Byte) : Packet :=
  (b0.setWidth 24 <<< 16) ||| (b1.setWidth 24 <<< 8) ||| b2.setWidth 24

end Sys2Proof.Machine
end

