-- ==== Sys2Proof/Machine/State.lean ====
section
/-! DEFINITION. The state of the block (10_state.md), as plain data, the reasons a step can stop, and the state after
reset. -/

namespace Sys2Proof.Machine

/-- `LIFECYCLE` (10_state.md R19). -/
inductive Lifecycle where
  | uninitialized
  | initializing
  | ready
  | shutdown
  deriving DecidableEq, Repr

/-- The two-bit encoding R19 suggests; no rule depends on it. -/
def Lifecycle.code : Lifecycle → BitVec 2
  | .uninitialized => 0
  | .initializing => 1
  | .ready => 2
  | .shutdown => 3

/-- The three errors (60_exceptions.md R103). -/
inductive Error where
  /-- Registration beyond board capacity (R105). -/
  | capacityExceeded
  /-- Position outside the registered set, or too long a batch (R106). -/
  | outOfRange
  /-- A transfer or `close` with no transaction open, or an `open` with one open (R107). -/
  | preconditionViolation
  deriving DecidableEq, Repr

/-- The result of an operation that returns `Ok` (30_encoding.md R58). -/
inductive Value where
  /-- No result. -/
  | none
  /-- A packet that the encoder built (40_encoder.md R60, R62). -/
  | packet (w : Packet)
  /-- The echoed packet of a `transfer` (41_serializer.md R69). -/
  | echo (w : Packet)
  /-- A `ModuleHandle`: the position (43_orchestrator.md R86). -/
  | handle (position : Nat)
  /-- The magnitudes `readButtons` read (44_board_io.md R99). -/
  | magnitudes (values : List Nat)
  /-- What `isPressed` answers (R100). -/
  | pressed (b : Bool)
  deriving DecidableEq, Repr

/-- What an operation returns to the host: status `Ok` and a result, or an error, which records no further value
(60_exceptions.md R103). -/
inductive Reply where
  | ok (result : Value)
  | error (e : Error)
  deriving DecidableEq, Repr

/-- The status number of a reply (R103: `Ok 0`, and the errors in the document's order). -/
def Reply.statusCode : Reply → Nat
  | .ok _ => 0
  | .error .capacityExceeded => 1
  | .error .outOfRange => 2
  | .error .preconditionViolation => 3

/-- A port event (10_state.md R20). -/
inductive Event where
  /-- `M+`: bus electrical mode applied. -/
  | modeApplied
  /-- `M-`: released. -/
  | modeReleased
  /-- `S+`: select line asserted. -/
  | selectAsserted
  /-- `S-`: deasserted. -/
  | selectDeasserted
  /-- `X(b, r)`: byte `b` sent, byte `r` received. -/
  | exchange (sent received : Byte)
  /-- `A(i, e)`: amp-enable line of position `i` written to `e`. -/
  | amp (i : Nat) (enabled : Bool)
  /-- `L(i, e)`: LED line of position `i` written to `e`. -/
  | led (i : Nat) (lit : Bool)
  /-- `B(j, m)`: button `j` polled, magnitude `m` read. -/
  | button (j : Nat) (magnitude : Nat)
  /-- `MI(i)`: module `i` told to initialise. -/
  | modInit (i : Nat)
  /-- `MS(i, v)`: module `i` stepped, returned `v`. -/
  | modStep (i : Nat) (value : Value16)
  /-- `MP(i, p)`: module `i` asked its last position, returned `p`. -/
  | modPos (i : Nat) (position : Position32)
  /-- `GU`: GPIO roles brought up. -/
  | gpioUp
  /-- `CU`: clock synthesizer brought up. -/
  | clockUp
  /-- `BU`: serial bus brought up. -/
  | busUp
  deriving DecidableEq, Repr

/-- Where the answers of one kind of external agent come from (00_scope.md R6): first the answers of a script, then
free values, numbered (log 4). The model's own, not the spec's. -/
structure Draws (α : Type) where
  script : List α
  taken : Nat
  deriving DecidableEq, Repr

/-- The state of the block: 10_state.md, what the host has been told, and the model's own fields: `cfg`, the four
sources of free inputs of 00_scope.md R6, and `hostPort` (INVENTORY.md, State). -/
structure State where
  /-- The parameters (00_scope.md R5), constant. -/
  cfg : Config
  /-- `CTRL_IMAGE` (R12) -/
  ctrlImage : CtrlFields
  /-- `CTRL_WORD` (R13) -/
  ctrlWord : Packet
  /-- `DEV_LIVE` (R18) -/
  devLive : Bool
  /-- `TXN_OPEN` (R15) -/
  txnOpen : Bool
  /-- `SEL` (R16) -/
  sel : Bool
  /-- `MODE_ON` (R16) -/
  modeOn : Bool
  /-- `SHIFT_TX` (R17) -/
  shiftTx : BitVec 24
  /-- `SHIFT_RX` (R17) -/
  shiftRx : BitVec 24
  /-- `LIFECYCLE` (R19) -/
  lifecycle : Lifecycle
  /-- `COUNT` (R21) -/
  count : Nat
  /-- `OUT[i]`, `i < COUNT` (R22) -/
  out : List Value16
  /-- `POS[i]`, `i < COUNT` (R23) -/
  pos : List Position32
  /-- `LED[i]`, `i < COUNT` (R24) -/
  led : List Bool
  /-- `AMP[i]`, `i < CAP` (R25) -/
  amp : List Bool
  /-- `BTN[j]`, `j < NBTN` (R26) -/
  btn : List Bool
  /-- `TRACE` (R20), oldest first -/
  trace : List Event
  /-- What each operation returned (00_scope.md R7(a)), oldest first -/
  replies : List Reply
  /-- What the bus peer answers (log 4) -/
  busIn : Draws Byte
  /-- What the modules answer to `step()` (log 4) -/
  stepIn : Draws Value16
  /-- What the modules answer to `getLastPosition()` (log 4) -/
  posIn : Draws Position32
  /-- What the sense inputs answer (log 4) -/
  senseIn : Draws Nat
  /-- The bytes of the calls the host has yet to make (log 5) -/
  hostPort : List Byte
  deriving DecidableEq, Repr

/-- Why the machine stops with a fault. -/
inductive Fault where
  /-- The bytes at the host port are no call: raised by `step` (Machine/Fetch.lean) where the decoder refuses them.
  Safe: the spec's host names an operation (30_encoding.md R58), so no run of the block is cut short. -/
  | badRequest (e : DecodeError)
  deriving DecidableEq, Repr

/-- Why an instruction is refused: "the spec gives the call no meaning" (60_exceptions.md R110). Every one is safe: the
model stops and nothing is claimed of what the hardware does. -/
inductive Refusal where
  /-- The instruction has no meaning in the model yet: raised by `exec`'s refused arms, of which there is none. Safe. -/
  | notModelled (mnemonic : String)
  /-- The operation needs `DEV_LIVE` and the device is gone (43_orchestrator.md R85): raised by the bus and device
  operations, the wire packets, device teardown, `initialize`, `stepControlCycle`, `setOutputs`. Safe. -/
  | deviceGone
  /-- `LIFECYCLE` is not one the operation is admitted in (R85): raised by the registry's operations. Safe. -/
  | lifecycleNotAdmitted
  /-- `register` at a position other than `COUNT` while the registry is not full (R86, R87): raised by `register`.
  Safe. -/
  | positionNotCount
  /-- A field value wider than its field, which "cannot be passed" (40_encoder.md R60): raised by `buildControlWord`
  and `WRCTRL`. Safe. -/
  | fieldTooWide
  /-- A button index outside 0 to `NBTN`-1, which "cannot be written down" (44_board_io.md R100): raised by
  `isPressed`. Safe. -/
  | noSuchButton
  deriving DecidableEq, Repr

/-- The state after construction of the device and the registry with the given parameters (10_state.md R29,
70_reset_and_hazards.md R119). `shiftTx` and `shiftRx`, which R29 leaves unspecified, are 0: DESIGN CHOICE (log 9). -/
def State.resetWith (c : Config) : State :=
  { cfg := c
    ctrlImage := c.ctrlDefault
    ctrlWord := buildControlWord c c.ctrlDefault
    devLive := true
    txnOpen := false
    sel := false
    modeOn := false
    shiftTx := 0
    shiftRx := 0
    lifecycle := .uninitialized
    count := 0
    out := []
    pos := []
    led := []
    amp := List.replicate c.cap false
    btn := List.replicate c.nbtn false
    trace := []
    replies := []
    busIn := ⟨[], 0⟩
    stepIn := ⟨[], 0⟩
    posIn := ⟨[], 0⟩
    senseIn := ⟨[], 0⟩
    hostPort := [] }

/-- The machine right after reset, with the default parameters. -/
def State.reset : State := State.resetWith .default

end Sys2Proof.Machine
end

