-- ==== Sys2Proof/Machine/Ops.lean ====
section
/-! DEFINITION. The primitives of 00_scope.md R9 as operations on the state, returning to the host (`return v`,
`raise E`), and the serializer's own steps that every other operation is made of.

Each primitive appends its one event to TRACE; the free inputs come from `busIn`, `stepIn`, `posIn`, `senseIn`
(log 4). -/

namespace Sys2Proof.Machine

/-! ## Free inputs -/

/-- The next answer of an agent and its later answers: the script's head while there is one, then the free value of the
next number (log 4). -/
def Draws.next {α : Type} (free : Nat → α) (d : Draws α) : α × Draws α :=
  match d.script with
  | [] => (free d.taken, { d with taken := d.taken + 1 })
  | a :: rest => (a, { d with script := rest })

/-! ## Port events -/

/-- Append an event to TRACE (10_state.md R20). -/
def State.emit (e : Event) (s : State) : State := { s with trace := s.trace ++ [e] }

/-- `BusMode(on)` (R9, R16). -/
def State.busMode (on : Bool) (s : State) : State :=
  { s.emit (if on then .modeApplied else .modeReleased) with modeOn := on }

/-- `Select(a)` (R9, R16). -/
def State.select (a : Bool) (s : State) : State :=
  { s.emit (if a then .selectAsserted else .selectDeasserted) with sel := a }

/-- Load the transmit shift register (41_serializer.md R75). -/
def State.loadTx (w : BitVec 24) (s : State) : State := { s with shiftTx := w }

/-- `BusXfer(b) -> r` (R9, 41_serializer.md R70): the bus peer's byte is free. The two shift registers move by the eight
bits of the exchange (R75). -/
def State.busXfer (b : Byte) (s : State) : Byte × State :=
  let answer := s.busIn.next Config.freeByte
  let r := answer.1
  (r, { s.emit (.exchange b r) with
        busIn := answer.2
        shiftTx := s.shiftTx <<< 8
        shiftRx := (s.shiftRx <<< 8) ||| r.setWidth 24 })

/-- `AmpWrite(i, b)` with the write of `AMP[i]` that always follows it (44_board_io.md R96, R97). -/
def State.ampWrite (i : Nat) (b : Bool) (s : State) : State :=
  { s.emit (.amp i b) with amp := s.amp.set i b }

/-- `LedWrite(i, b)` with the write of `LED[i]` that always follows it (R98). -/
def State.ledWrite (i : Nat) (b : Bool) (s : State) : State :=
  { s.emit (.led i b) with led := s.led.set i b }

/-- `Sense(j) -> m` (R9): the magnitude is free. -/
def State.senseButton (j : Nat) (s : State) : Nat × State :=
  let answer := s.senseIn.next Config.freeMagnitude
  (answer.1, { s.emit (.button j answer.1) with senseIn := answer.2 })

/-- `ModInit(i)` (R9). -/
def State.modInit (i : Nat) (s : State) : State := s.emit (.modInit i)

/-- `ModStep(i) -> v` (R9): the value is free. -/
def State.modStep (i : Nat) (s : State) : Value16 × State :=
  let answer := s.stepIn.next Config.freeStep
  (answer.1, { s.emit (.modStep i answer.1) with stepIn := answer.2 })

/-- `ModPos(i) -> p` (R9): the position is free. -/
def State.modPos (i : Nat) (s : State) : Position32 × State :=
  let answer := s.posIn.next Config.freePosition
  (answer.1, { s.emit (.modPos i answer.1) with posIn := answer.2 })

/-- `GpioUp` (R9): always succeeds (92_eei_decisions.md D20, log 12). -/
def State.gpioUp (s : State) : State := s.emit .gpioUp

/-- `ClockUp` (R9): always succeeds (D20, log 12). -/
def State.clockUp (s : State) : State := s.emit .clockUp

/-- `BusUp` (R9): always succeeds (D20, log 12). -/
def State.busUp (s : State) : State := s.emit .busUp

/-! ## Errors and returns -/

/-- A running operation: either it goes on with a value, or it has raised an error; what was written stays written
(60_exceptions.md R104). -/
inductive Run (α : Type) where
  | ok (val : α) (s : State)
  | raised (e : Error) (s : State)
  deriving DecidableEq, Repr

/-- Go on unless an error was raised. -/
def Run.andThen {α β : Type} (r : Run α) (f : α → State → Run β) : Run β :=
  match r with
  | .ok v s => f v s
  | .raised e s => .raised e s

/-- TAKING AN ERROR: the status `E` goes to the host; nothing is saved, no mode changes, and every effect before the
`raise` stays (R104). -/
def State.raise (e : Error) (s : State) : State := { s with replies := s.replies ++ [.error e] }

/-- RETURNING: status `Ok` and the result go to the host (00_scope.md R9). There is no return from an error: the block
accepts the next operation (R111). -/
def State.answer (v : Value) (s : State) : State := { s with replies := s.replies ++ [.ok v] }

/-- The end of an operation: the state in which the block accepts the next one. -/
def Run.finish (r : Run Value) : Host.Outcome State Fault Refusal :=
  match r with
  | .ok v s => .next (s.answer v)
  | .raised e s => .next (s.raise e)

/-! ## The serializer's steps (41_serializer.md) -/

/-- The body of `open` once no transaction is open: apply-mode, dummy exchange, assert-select (R67, R73). `SHIFT_TX` is
loaded with `DUMMY_BYTE` in its top byte (R75); the 16 bits below it, which R75 leaves open, are 0: DESIGN CHOICE
(log 9). -/
def State.enterTransaction (s : State) : State :=
  let s := s.busMode true
  let s := s.loadTx (s.cfg.dummyByte.setWidth 24 <<< 16)
  let s := (s.busXfer s.cfg.dummyByte).2
  let s := s.select true
  { s with txnOpen := true }

/-- The body of `close` once a transaction is open: deassert select, then release the mode (R68). -/
def State.leaveTransaction (s : State) : State :=
  let s := s.select false
  let s := s.busMode false
  { s with txnOpen := false }

/-- The body of `transfer` once a transaction is open: three exchanges, first byte first; the echo is
`fromBytes([r0, r1, r2])` (R69, R74). -/
def State.sendPacket (w : Packet) (s : State) : Packet × State :=
  let bytes := toBytes w
  let s := s.loadTx w
  let x0 := s.busXfer bytes.1
  let x1 := x0.2.busXfer bytes.2.1
  let x2 := x1.2.busXfer bytes.2.2
  (fromBytes x0.1 x1.1 x2.1, x2.2)

/-- `open()` (R67). -/
def openBus (s : State) : Run Unit :=
  if s.txnOpen then .raised .preconditionViolation s else .ok () s.enterTransaction

/-- `close()` (R68). -/
def closeBus (s : State) : Run Unit :=
  if s.txnOpen then .ok () s.leaveTransaction else .raised .preconditionViolation s

/-- `transfer(packet)` (R69). -/
def transferPacket (w : Packet) (s : State) : Run Packet :=
  if s.txnOpen then .ok (s.sendPacket w).1 (s.sendPacket w).2 else .raised .preconditionViolation s

/-- The "convenience wrappers over `transfer`": the echo is discarded (30_encoding.md R59). -/
def sendOnly (w : Packet) (s : State) : Run Unit :=
  (transferPacket w s).andThen fun _ s => .ok () s

/-- Packets one after another, with nothing between them (70_reset_and_hazards.md R127). -/
def sendAll (ws : List Packet) (s : State) : Run Unit :=
  match ws with
  | [] => .ok () s
  | w :: ws => (sendOnly w s).andThen fun _ s => sendAll ws s

/-- One transaction around a list of packets: `open`, the packets, `close` (R71). -/
def transaction (ws : List Packet) (s : State) : Run Unit :=
  (openBus s).andThen fun _ s =>
  (sendAll ws s).andThen fun _ s =>
  closeBus s

/-- The body of device teardown (42_device_commands.md R81): close a transaction left open, then the software reset in a
fresh transaction, then the device is gone. -/
def teardownDevice (s : State) : Run Unit :=
  (if s.txnOpen then closeBus s else .ok () s).andThen fun _ s =>
  (transaction [resetWord s.cfg] s).andThen fun _ s =>
  .ok () { s with devLive := false }

/-! ## Loops over positions -/

/-- `for i in 0 .. n-1: AmpWrite(i, b); AMP[i] <- b`. -/
def State.writeAmps (n : Nat) (b : Bool) (s : State) : State :=
  (List.range n).foldl (fun s i => s.ampWrite i b) s

/-- `for i in 0 .. n-1: LedWrite(i, b); LED[i] <- b`. -/
def State.writeLeds (n : Nat) (b : Bool) (s : State) : State :=
  (List.range n).foldl (fun s i => s.ledWrite i b) s

/-- `for i in 0 .. n-1: ModInit(i)`. -/
def State.initModules (n : Nat) (s : State) : State :=
  (List.range n).foldl (fun s i => s.modInit i) s

/-- One pass of the loop of `stepControlCycle`: step the module, cache its value, read its position
(43_orchestrator.md R90). -/
def State.stepModule (i : Nat) (s : State) : State :=
  let stepped := s.modStep i
  let s := { stepped.2 with out := stepped.2.out.set i stepped.1 }
  let asked := s.modPos i
  { asked.2 with pos := asked.2.pos.set i asked.1 }

/-- `for i in 0 .. n-1`: step, cache, read the position. -/
def State.stepModules (n : Nat) (s : State) : State :=
  (List.range n).foldl (fun s i => s.stepModule i) s

/-- `for j in ..`: poll button `j` against its threshold, latch, keep the magnitude (44_board_io.md R99). The
thresholds are those of the buttons from `j` on. -/
def State.pollButtons (j : Nat) (thresholds : List Nat) (s : State) : List Nat × State :=
  match thresholds with
  | [] => ([], s)
  | t :: rest =>
    let sensed := s.senseButton j
    let s := { sensed.2 with btn := sensed.2.btn.set j (decide (sensed.1 > t)) }
    let later := s.pollButtons (j + 1) rest
    (sensed.1 :: later.1, later.2)

end Sys2Proof.Machine
end

