-- ==== Sys2Proof/Machine/Flags.lean ====
section
/-! DEFINITION. The block has no condition codes (10_state.md R28). What gates an operation is `DEV_LIVE` and
`LIFECYCLE`: the admission table of 43_orchestrator.md R85, row by row. -/

namespace Sys2Proof.Machine

/-- The call goes on if the device exists, and is refused if it is gone. -/
def needDevice (s : State) (run : Host.Outcome State Fault Refusal) : Host.Outcome State Fault Refusal :=
  if s.devLive then run else .refused .deviceGone

/-- The call goes on if `LIFECYCLE` is one of those listed, and is refused otherwise. -/
def needLifecycle (admitted : List Lifecycle) (s : State) (run : Host.Outcome State Fault Refusal) :
    Host.Outcome State Fault Refusal :=
  if s.lifecycle ∈ admitted then run else .refused .lifecycleNotAdmitted

/-- `register`: "Valid only before or during `Initializing`". -/
def admitsRegister : List Lifecycle := [.uninitialized, .initializing]

/-- `initialize`: `Uninitialized`. -/
def admitsInitialize : List Lifecycle := [.uninitialized]

/-- `stepControlCycle`, `setOutputs`, `enableAllAmps`, `setLed`, `readButtons`, `isPressed`: `Ready`. -/
def admitsReady : List Lifecycle := [.ready]

/-- `disableAllAmps` and registry teardown: every state but `Shutdown`. -/
def admitsBeforeShutdown : List Lifecycle := [.uninitialized, .initializing, .ready]

end Sys2Proof.Machine
end

