-- ==== Sys2Proof/Machine/Operands.lean ====
section
/-! DEFINITION. What the spec types an operand to, where the type is a parameter: a call with another operand "cannot
be written down" (40_encoder.md R60, 44_board_io.md R100), and the model refuses it (log 13). -/

namespace Sys2Proof.Machine

/-- Each field value is no wider than its field under the block's own layout (R60). -/
def fieldsTyped (f : CtrlFields) (s : State) : Bool := decide (f.Fits s.cfg.layout)

/-- The role is a button index, 0 to `NBTN`-1 (R100). -/
def roleTyped (role : Nat) (s : State) : Bool := decide (role < s.cfg.nbtn)

/-- `BTN[role]` (R100). -/
def buttonLatch (role : Nat) (s : State) : Bool := s.btn.getD role false

/-- `OUT[0 .. k-1] <- values`, the other entries kept (43_orchestrator.md R91). -/
def cacheOutputs (values : List Value16) (s : State) : State :=
  { s with out := values ++ s.out.drop values.length }

/-- The packets of a batch: `WRUPD` of `OUT[i]` for `i` from 0 to `k`-1, in ascending position (R90, R91). -/
def batchPackets (k : Nat) (s : State) : List Packet := (s.out.take k).map (encodeSetOutput s.cfg)

end Sys2Proof.Machine
end

