-- ==== Sys2Proof/Machine/Board.lean ====
section
/-! DEFINITION. The board lines driven by the orchestrator (44_board_io.md). None of these sends a packet. -/

namespace Sys2Proof.Machine

/-- `enableAllAmps()`: the registered positions only (R96). -/
def execEnableAllAmps (s : State) : Host.Outcome State Fault Refusal :=
  needLifecycle admitsReady s (Run.ok .none (s.writeAmps s.count true)).finish

/-- `disableAllAmps()`: all `CAP` positions (R97). -/
def execDisableAllAmps (s : State) : Host.Outcome State Fault Refusal :=
  needLifecycle admitsBeforeShutdown s (Run.ok .none (s.writeAmps s.cfg.cap false)).finish

/-- `setLed(position, state)`: bounds-checked (R98). -/
def execSetLed (position : Nat) (state : Bool) (s : State) : Host.Outcome State Fault Refusal :=
  needLifecycle admitsReady s <|
    if s.count ≤ position then (Run.raised .outOfRange s).finish
    else (Run.ok .none (s.ledWrite position state)).finish

/-- `readButtons() -> values[]` (R99). -/
def execReadButtons (s : State) : Host.Outcome State Fault Refusal :=
  needLifecycle admitsReady s <|
    let polled := s.pollButtons 0 s.cfg.thresh
    (Run.ok (.magnitudes polled.1) polled.2).finish

/-- `isPressed(role) -> bool`: the latched state; polls nothing (R100). -/
def execIsPressed (role : Nat) (s : State) : Host.Outcome State Fault Refusal :=
  needLifecycle admitsReady s <|
    if roleTyped role s then (Run.ok (.pressed (buttonLatch role s)) s).finish
    else .refused .noSuchButton

end Sys2Proof.Machine
end

