-- ==== Sys2Proof/Machine/Device.lean ====
section
/-! DEFINITION. Device commands and device teardown (42_device_commands.md). All need `DEV_LIVE`; none reads
`LIFECYCLE`. -/

namespace Sys2Proof.Machine

/-- `sendControlRegister()` = `transfer(CTRL_WORD)`, echo discarded (R78). -/
def execSendControlRegister (s : State) : Host.Outcome State Fault Refusal :=
  needDevice s ((sendOnly s.ctrlWord s).andThen fun _ s => .ok .none s).finish

/-- `softReset()` = `transfer(resetWord())`, echo discarded (R79). -/
def execSoftReset (s : State) : Host.Outcome State Fault Refusal :=
  needDevice s ((sendOnly (resetWord s.cfg) s).andThen fun _ s => .ok .none s).finish

/-- `setOutput(value)` = `transfer(encodeSetOutput(value))`, echo discarded; `OUT` is not written (R80). -/
def execSetOutput (value : Value16) (s : State) : Host.Outcome State Fault Refusal :=
  needDevice s ((sendOnly (encodeSetOutput s.cfg value) s).andThen fun _ s => .ok .none s).finish

/-- Device teardown (R81). -/
def execDeviceTeardown (s : State) : Host.Outcome State Fault Refusal :=
  needDevice s ((teardownDevice s).andThen fun _ s => .ok .none s).finish

end Sys2Proof.Machine
end

