-- ==== Sys2Proof/Machine/Registry.lean ====
section
/-! DEFINITION. The batching orchestrator (43_orchestrator.md). -/

namespace Sys2Proof.Machine

/-- The module record that `register` appends at position `k = COUNT` (R86). -/
def registerAt (k : Nat) (s : State) : State :=
  let s := s.modInit k
  { s with
    out := s.out ++ [0]
    pos := s.pos ++ [0]
    led := s.led ++ [false]
    amp := s.amp.set k false
    count := k + 1 }

/-- `register(position) -> ModuleHandle` (R86, R87): admission, then the capacity, then the position. -/
def execRegisterModule (position : Nat) (s : State) : Host.Outcome State Fault Refusal :=
  needLifecycle admitsRegister s <|
    if s.count = s.cfg.cap then (Run.raised .capacityExceeded s).finish
    else if position ≠ s.count then .refused .positionNotCount
    else (Run.ok (.handle s.count) (registerAt s.count s)).finish

/-- Phases 1 to 4 of `initialize` (R88). -/
def bringUp (s : State) : State :=
  let s := { s with lifecycle := .initializing }
  let s := s.gpioUp
  let s := s.clockUp
  let s := s.busUp
  s.initModules s.count

/-- Phases 5 to 7 of `initialize`: reset, control image, zero output, one transaction each, `INIT_FANOUT(COUNT)`
packets in each (R88). -/
def bringUpDac (s : State) : Run Unit :=
  let n := s.cfg.initFanout.packets s.count
  (transaction (List.replicate n (resetWord s.cfg)) s).andThen fun _ s =>
  (transaction (List.replicate n s.ctrlWord) s).andThen fun _ s =>
  transaction (List.replicate n (encodeSetOutput s.cfg 0)) s

/-- Phase 8 of `initialize`: all amp lines, then all LED lines, of the registered positions; then `Ready` (R88). -/
def enableBoard (s : State) : State :=
  let s := s.writeAmps s.count true
  let s := s.writeLeds s.count true
  { s with lifecycle := .ready }

/-- `initialize()` (R88). -/
def execInitializeBoard (s : State) : Host.Outcome State Fault Refusal :=
  needDevice s <| needLifecycle admitsInitialize s <|
    ((bringUpDac (bringUp s)).andThen fun _ s => .ok .none (enableBoard s)).finish

/-- `stepControlCycle()` (R90). -/
def execStepControlCycle (s : State) : Host.Outcome State Fault Refusal :=
  needDevice s <| needLifecycle admitsReady s <|
    let s := s.stepModules s.count
    ((transaction (batchPackets s.count s) s).andThen fun _ s => .ok .none s).finish

/-- `setOutputs(values)` (R91): the length check comes before the cache is written. -/
def execSetOutputs (values : List Value16) (s : State) : Host.Outcome State Fault Refusal :=
  needDevice s <| needLifecycle admitsReady s <|
    if s.count < values.length then (Run.raised .outOfRange s).finish
    else
      let s := cacheOutputs values s
      ((transaction (batchPackets values.length s) s).andThen fun _ s => .ok .none s).finish

/-- Registry teardown (R92): every amp line down, then the device if it is live, then `Shutdown`. -/
def execRegistryTeardown (s : State) : Host.Outcome State Fault Refusal :=
  needLifecycle admitsBeforeShutdown s <|
    let s := s.writeAmps s.cfg.cap false
    ((if s.devLive then teardownDevice s else .ok () s).andThen fun _ s =>
      .ok .none { s with lifecycle := .shutdown }).finish

end Sys2Proof.Machine
end

