-- ==== Sys2Proof/Machine/Serializer.lean ====
section
/-! DEFINITION. The serializer and chip-select control (41_serializer.md). All three need `DEV_LIVE`; none reads
`LIFECYCLE`. -/

namespace Sys2Proof.Machine

/-- `transfer(packet) -> echoedPacket` (R69). -/
def execTransfer (packet : Packet) (s : State) : Host.Outcome State Fault Refusal :=
  needDevice s ((transferPacket packet s).andThen fun echo s => .ok (.echo echo) s).finish

/-- `open()` (R67). -/
def execOpenTransaction (s : State) : Host.Outcome State Fault Refusal :=
  needDevice s ((openBus s).andThen fun _ s => .ok .none s).finish

/-- `close()` (R68). -/
def execCloseTransaction (s : State) : Host.Outcome State Fault Refusal :=
  needDevice s ((closeBus s).andThen fun _ s => .ok .none s).finish

end Sys2Proof.Machine
end

