-- ==== Sys2Proof/Machine/Wire.lean ====
section
/-! DEFINITION. The three wire packets and the two pure encoder operations (40_encoder.md, 30_encoding.md R47, R57).

A wire packet as an instruction is the host's request to send it: the transfer of 42_device_commands.md R78 to R80, to
which the table's note for each packet points, with the echo discarded (log 6). -/

namespace Sys2Proof.Machine

/-- `WRCTRL cv, ovr, b2c, ets, iro, pv, ra`: send the control packet with those field values (R60, R78). -/
def execWrctrl (fields : CtrlFields) (s : State) : Host.Outcome State Fault Refusal :=
  needDevice s <|
    if fieldsTyped fields s then
      ((sendOnly (buildControlWord s.cfg fields) s).andThen fun _ s => .ok .none s).finish
    else .refused .fieldTooWide

/-- `SWRST`: send the software-reset packet (R64, R79). -/
def execSwrst (s : State) : Host.Outcome State Fault Refusal :=
  needDevice s ((sendOnly (resetWord s.cfg) s).andThen fun _ s => .ok .none s).finish

/-- `WRUPD v`: send the write-and-update packet (R62, R80). -/
def execWrupd (value : Value16) (s : State) : Host.Outcome State Fault Refusal :=
  needDevice s ((sendOnly (encodeSetOutput s.cfg value) s).andThen fun _ s => .ok .none s).finish

/-- `buildControlWord(fields) -> packet`: pure, always admitted (R60). -/
def execBuildControlWord (fields : CtrlFields) (s : State) : Host.Outcome State Fault Refusal :=
  if fieldsTyped fields s then (Run.ok (.packet (buildControlWord s.cfg fields)) s).finish
  else .refused .fieldTooWide

/-- `encodeSetOutput(value) -> packet`: pure, always admitted (R62). -/
def execEncodeSetOutput (value : Value16) (s : State) : Host.Outcome State Fault Refusal :=
  (Run.ok (.packet (encodeSetOutput s.cfg value)) s).finish

end Sys2Proof.Machine
end

