-- ==== Sys2Proof/Machine/Dispatch.lean ====
section
/-! DEFINITION. One arm per instruction. -/

namespace Sys2Proof.Machine

def exec (i : Instr) (s : State) : Host.Outcome State Fault Refusal :=
  match i with
  | .wrctrl fields => Sys2Proof.Machine.execWrctrl fields s
  | .swrst => Sys2Proof.Machine.execSwrst s
  | .wrupd value => Sys2Proof.Machine.execWrupd value s
  | .buildControlWord fields => Sys2Proof.Machine.execBuildControlWord fields s
  | .encodeSetOutput value => Sys2Proof.Machine.execEncodeSetOutput value s
  | .transfer packet => Sys2Proof.Machine.execTransfer packet s
  | .sendControlRegister => Sys2Proof.Machine.execSendControlRegister s
  | .softReset => Sys2Proof.Machine.execSoftReset s
  | .setOutput value => Sys2Proof.Machine.execSetOutput value s
  | .deviceTeardown => Sys2Proof.Machine.execDeviceTeardown s
  | .openTransaction => Sys2Proof.Machine.execOpenTransaction s
  | .closeTransaction => Sys2Proof.Machine.execCloseTransaction s
  | .initializeBoard => Sys2Proof.Machine.execInitializeBoard s
  | .registerModule position => Sys2Proof.Machine.execRegisterModule position s
  | .stepControlCycle => Sys2Proof.Machine.execStepControlCycle s
  | .setOutputs values => Sys2Proof.Machine.execSetOutputs values s
  | .enableAllAmps => Sys2Proof.Machine.execEnableAllAmps s
  | .disableAllAmps => Sys2Proof.Machine.execDisableAllAmps s
  | .setLed position state => Sys2Proof.Machine.execSetLed position state s
  | .readButtons => Sys2Proof.Machine.execReadButtons s
  | .isPressed role => Sys2Proof.Machine.execIsPressed role s
  | .registryTeardown => Sys2Proof.Machine.execRegistryTeardown s

end Sys2Proof.Machine
end

