-- ==== Sys2Proof/Machine/Fetch.lean ====
section
/-! DEFINITION. Taking the host's next call: the block fetches no instructions from a memory (10_state.md R11, 20_memory.md
R41); the host invokes one operation at a time (00_scope.md R6), and the calls it has yet to make are the bytes of
`hostPort` (log 5). -/

namespace Sys2Proof.Machine

/-- What stands at the host port. -/
inductive Fetched where
  /-- No call: the block waits for the host (70_reset_and_hazards.md R120). -/
  | idle
  /-- Bytes that are no call. -/
  | bad (e : DecodeError)
  /-- The next call, and the state in which it runs: its bytes have left the port. -/
  | call (i : Instr) (s : State)
  deriving DecidableEq, Repr

/-- Take the next call. -/
def fetch (s : State) : Fetched :=
  match s.hostPort with
  | [] => .idle
  | b :: bs =>
    match decode (b :: bs) with
    | .ok i rest => .call i { s with hostPort := rest }
    | .error e => .bad e

/-- The state with the bytes of one more call at the front of the host port. -/
def State.withCall (bytes : List Byte) (s : State) : State := { s with hostPort := bytes ++ s.hostPort }

end Sys2Proof.Machine
end

