-- ==== Sys2Proof/Machine/Step.lean ====
section
/-! DEFINITION. One step: the host's next call, run to completion (10_state.md R11, option (a)). -/

namespace Sys2Proof.Machine

/-- One step. With no call at the host port the block waits: the state does not change (log 19). -/
def step (s : State) : Host.Outcome State Fault Refusal :=
  match fetch s with
  | .idle => .next s
  | .bad e => .fault (.badRequest e)
  | .call i s => exec i s

/-- The state with the call that a word of the table encodes standing first at the host port. Nothing else is needed
for the next step to run it: the calls of the host are the machine's only program (log 5). -/
def State.withFetchWord (s : State) (nbits w : Nat) : State := s.withCall (tableCall nbits w)

end Sys2Proof.Machine
end

