-- ==== Sys2Proof/Machine/Serial.lean ====
section
/-! DEFINITION. The bit-level refinement of a transfer (41_serializer.md R75), the spec's own choice: nothing in any
other rule depends on it. The byte-level events of Machine/Ops.lean are the normative observation; an obligation says
that the two agree. -/

namespace Sys2Proof.Machine

/-- `SHIFT_TX` and `SHIFT_RX` inside a transfer. -/
structure ShiftRegs where
  tx : BitVec 24
  rx : BitVec 24
  deriving DecidableEq, Repr

/-- One `SCLK` period with `SDI = sdi`: `SDO`, and the registers after it. -/
def clockPeriod (sdi : Bool) (r : ShiftRegs) : Bool × ShiftRegs :=
  (r.tx.getLsbD 23, { tx := r.tx <<< 1, rx := (r.rx <<< 1) ||| (BitVec.ofBool sdi).setWidth 24 })

/-- A run of periods, one for each bit received: the bits sent, and the registers after them. -/
def clockPeriods (sdi : List Bool) (r : ShiftRegs) : List Bool × ShiftRegs :=
  match sdi with
  | [] => ([], r)
  | b :: rest =>
    let now := clockPeriod b r
    let later := clockPeriods rest now.2
    (now.1 :: later.1, later.2)

/-- The bits of a byte in the order they cross the bus: most significant first (20_memory.md R32). -/
def bitsMsbFirst (b : Byte) : List Bool :=
  [b.getLsbD 7, b.getLsbD 6, b.getLsbD 5, b.getLsbD 4, b.getLsbD 3, b.getLsbD 2, b.getLsbD 1, b.getLsbD 0]

end Sys2Proof.Machine
end

