-- ==== Sys2Proof/Machine/Trace.lean ====
section
/-! DEFINITION. Reading TRACE: packets and transactions (41_serializer.md R76), the shapes of transactions (R72), and
the lines the block drives (44_board_io.md R101). -/

namespace Sys2Proof.Machine

/-- Bytes in groups of three from the first, each group through `fromBytes` (R76; R34: no remainder is ever left). -/
def groupPackets (bs : List Byte) : List Packet :=
  match bs with
  | b0 :: b1 :: b2 :: rest => fromBytes b0 b1 b2 :: groupPackets rest
  | _ => []

/-- `transactions(T)` from inside a trace: the bytes sent so far in the select window, if one is open, then the events
to come. A window still open where the trace ends counts with the packets it holds (log 16). -/
def transactionsFrom (window : Option (List Byte)) (t : List Event) : List (List Packet) :=
  match t, window with
  | [], none => []
  | [], some bs => [groupPackets bs]
  | .selectAsserted :: rest, _ => transactionsFrom (some []) rest
  | .selectDeasserted :: rest, some bs => groupPackets bs :: transactionsFrom none rest
  | .exchange b _ :: rest, some bs => transactionsFrom (some (bs ++ [b])) rest
  | _ :: rest, window => transactionsFrom window rest

/-- `transactions(T)`: the list of per-transaction packet lists (R76). -/
def transactions (t : List Event) : List (List Packet) := transactionsFrom none t

/-- `packets(T)`: the packets of all transactions, in order (R76). -/
def packets (t : List Event) : List Packet := (transactions t).flatten

/-- An event without what the bus peer answered: the received byte, which is free, replaced by 0. -/
def Event.sent : Event → Event
  | .exchange b _ => .exchange b 0
  | e => e

/-- The events of a successful `open`, received byte aside (R67). -/
def openShape (c : Config) : List Event := [.modeApplied, .exchange c.dummyByte 0, .selectAsserted]

/-- The events of a successful `close` (R68). -/
def closeShape : List Event := [.selectDeasserted, .modeReleased]

/-- The events of a successful `transfer`, received bytes aside (R69). -/
def packetShape (w : Packet) : List Event :=
  [.exchange (toBytes w).1 0, .exchange (toBytes w).2.1 0, .exchange (toBytes w).2.2 0]

/-- The events of one transaction that sends the packets listed (R72). -/
def transactionShape (c : Config) (ws : List Packet) : List Event :=
  openShape c ++ ws.flatMap packetShape ++ closeShape

/-- The events of the module loop of `stepControlCycle` from position `i` on, for the values and positions the modules
answer (43_orchestrator.md R90). -/
def moduleEvents (i : Nat) (answers : List (Value16 × Position32)) : List Event :=
  match answers with
  | [] => []
  | (v, p) :: rest => .modStep i v :: .modPos i p :: moduleEvents (i + 1) rest

/-- The events of `readButtons` from button `j` on, for the magnitudes read (44_board_io.md R99). -/
def buttonEvents (j : Nat) (magnitudes : List Nat) : List Event :=
  match magnitudes with
  | [] => []
  | m :: rest => .button j m :: buttonEvents (j + 1) rest

/-- The last value the block wrote to the amp-enable line of position `i`; `none` if it never wrote it (10_state.md R25,
93_implementation_defined.md U12). -/
def ampLine (i : Nat) (t : List Event) : Option Bool :=
  t.foldl (fun last e => match e with | .amp k b => if k = i then some b else last | _ => last) none

/-- The last value the block wrote to the LED line of position `i`; `none` if it never wrote it. -/
def ledLine (i : Nat) (t : List Event) : Option Bool :=
  t.foldl (fun last e => match e with | .led k b => if k = i then some b else last | _ => last) none

/-- Whether the block last asserted or deasserted the select line; `none` if it never drove it (10_state.md R16). -/
def selectLine (t : List Event) : Option Bool :=
  t.foldl (fun last e => match e with | .selectAsserted => some true | .selectDeasserted => some false | _ => last) none

/-- The electrical level of a line from what the block last wrote and the level that means "on" (R101): unknown where
the block never wrote the line or the parameter is not given (log 3, log 10). -/
def lineLevel (written : Option Bool) (onLevel : Option Bool) : Option Bool :=
  written.bind fun on => onLevel.map fun level => if on then level else !level

end Sys2Proof.Machine
end

