-- ==== Sys2Proof/Safety.lean ====
section
/-! DEFINITION. What counts as a safe state and a safe run: the invariants of 10_state.md R27 and 43_orchestrator.md
R95, the bracketing of the bus (41_serializer.md R72, 70_reset_and_hazards.md R123), the DAC before the amps (R124), the
end of a run (R132), and states compared without what the bus peer answered (41_serializer.md R74). -/

namespace Sys2Proof.Machine

/-- The invariants that hold whenever no operation is running. -/
structure State.Inv (s : State) : Prop where
  /-- The parameters meet the constraints of 00_scope.md R5. -/
  config : s.cfg.Wf
  /-- R27(a): "registered module count never exceeds board capacity". -/
  countLeCap : s.count ≤ s.cfg.cap
  /-- R27(b): `SEL = TXN_OPEN`. -/
  selIsOpen : s.sel = s.txnOpen
  /-- R27(b): `MODE_ON = TXN_OPEN`. -/
  modeIsOpen : s.modeOn = s.txnOpen
  /-- R27(c): `OUT[i]` exists exactly for `i < COUNT`. -/
  outEntries : s.out.length = s.count
  /-- R27(c): `POS[i]` exists exactly for `i < COUNT`. -/
  posEntries : s.pos.length = s.count
  /-- R27(c): `LED[i]` exists exactly for `i < COUNT`. -/
  ledEntries : s.led.length = s.count
  /-- R25: all `CAP` entries of `AMP` exist. -/
  ampEntries : s.amp.length = s.cfg.cap
  /-- R26: all `NBTN` entries of `BTN` exist. -/
  btnEntries : s.btn.length = s.cfg.nbtn
  /-- R12: the control image holds the named defaults. -/
  imageIsDefault : s.ctrlImage = s.cfg.ctrlDefault
  /-- R13: `CTRL_WORD = buildControlWord(CTRL_IMAGE)`. -/
  wordIsBuilt : s.ctrlWord = buildControlWord s.cfg s.ctrlImage
  /-- R27(e): after `Shutdown` the device is gone and every amp entry is false. -/
  shutdownSafe : s.lifecycle = .shutdown → s.devLive = false ∧ ∀ b ∈ s.amp, b = false
  /-- Device teardown leaves no transaction open (R81), and none can be opened after it. -/
  goneIsClosed : s.devLive = false → s.txnOpen = false
  /-- Before `Ready` no amp is enabled, no LED is lit and every cached output is 0 (R25, R24, R88). -/
  beforeReady : s.lifecycle = .uninitialized ∨ s.lifecycle = .initializing →
    (∀ b ∈ s.amp, b = false) ∧ (∀ b ∈ s.led, b = false) ∧ ∀ v ∈ s.out, v = 0

/-! ## The effect of sending one packet -/

/-- `t` is `s` after one packet inside an open transaction, echo discarded: three exchanges with free answers, and
nothing else but the bus peer's source, the shift registers and the reply (42_device_commands.md R78 to R80). -/
def PacketSent (w : Packet) (s t : State) : Prop :=
  ∃ r0 r1 r2 bus tx rx, t =
    { s with
      busIn := bus
      shiftTx := tx
      shiftRx := rx
      trace := s.trace ++
        [.exchange (toBytes w).1 r0, .exchange (toBytes w).2.1 r1, .exchange (toBytes w).2.2 r2]
      replies := s.replies ++ [.ok .none] }

/-! ## Bracketing of the bus -/

/-- Where the bus stands between two events. -/
inductive BusPhase where
  /-- No transaction. -/
  | idle
  /-- After `M+`. -/
  | modeApplied
  /-- After the dummy exchange. -/
  | settled
  /-- Selected, with 0, 1 or 2 bytes of a packet sent. -/
  | selected (bytes : Fin 3)
  /-- After `S-`. -/
  | deselected
  deriving DecidableEq, Repr

/-- The event has nothing to do with the bus. -/
def Event.offBus : Event → Bool
  | .modeApplied | .modeReleased | .selectAsserted | .selectDeasserted | .exchange _ _ => false
  | _ => true

/-- The only events allowed in each phase: apply-mode, dummy exchange, assert-select (R123); whole packets (R34);
deassert, release (R68); and, between operations, any event that is not on the bus (R72). -/
def BusPhase.after (dummy : Byte) (p : BusPhase) (e : Event) : Option BusPhase :=
  match p, e with
  | .idle, .modeApplied => some .modeApplied
  | .modeApplied, .exchange b _ => if b = dummy then some .settled else none
  | .settled, .selectAsserted => some (.selected 0)
  | .selected k, .exchange _ _ => some (.selected (k + 1))
  | .selected 0, .selectDeasserted => some .deselected
  | .deselected, .modeReleased => some .idle
  | .idle, e => if e.offBus then some .idle else none
  | .selected 0, e => if e.offBus then some (.selected 0) else none
  | _, _ => none

/-- The phase a trace leads to from a given phase; `none` if some event was not allowed where it stands. -/
def busPhaseFrom (dummy : Byte) (p : BusPhase) (t : List Event) : Option BusPhase :=
  match t with
  | [] => some p
  | e :: rest => (p.after dummy e).bind fun q => busPhaseFrom dummy q rest

/-- Every event of TRACE stands where it may, and the trace ends outside a transaction or between two packets of an
open one, as `TXN_OPEN` says. -/
abbrev State.BusBracketed (s : State) : Prop :=
  busPhaseFrom s.cfg.dummyByte .idle s.trace = some (if s.txnOpen then .selected 0 else .idle)

/-! ## The DAC before the amps -/

/-- The three transactions of `initialize`, received bytes aside: reset, control image, zero output, as many packets in
each as `INIT_FANOUT(COUNT)` (R88). -/
def bringUpShape (s : State) : List Event :=
  let n := s.cfg.initFanout.packets s.count
  transactionShape s.cfg (List.replicate n (resetWord s.cfg))
    ++ transactionShape s.cfg (List.replicate n s.ctrlWord)
    ++ transactionShape s.cfg (List.replicate n (encodeSetOutput s.cfg 0))

/-- No amp line has been enabled before `Ready`, and every enabling write stands after the three transactions of
`initialize` (R124: "DAC reset/config/zero must happen before amps are enabled"); in `Ready` the three have happened. -/
structure State.DacBeforeAmps (s : State) : Prop where
  noneBeforeReady : s.lifecycle = .uninitialized ∨ s.lifecycle = .initializing →
    ∀ i, Event.amp i true ∉ s.trace
  afterBringUp : ∀ earlier later i, s.trace = earlier ++ Event.amp i true :: later →
    ∃ a b c, earlier = a ++ b ++ c ∧ b.map Event.sent = bringUpShape s
  readyBroughtUp : s.lifecycle = .ready → ∃ a b c, s.trace = a ++ b ++ c ∧ b.map Event.sent = bringUpShape s

/-! ## Recorded line levels -/

/-- `AMP[i]` and `LED[i]` are the last value written to the line, where the line was ever written (R25, R24). -/
structure State.LinesRecorded (s : State) : Prop where
  /-- No LED line is written before `Ready`: the entry `register` makes is state only (43_orchestrator.md R86). -/
  ledBeforeReady : s.lifecycle = .uninitialized ∨ s.lifecycle = .initializing → ∀ i, ledLine i s.trace = none
  amp : ∀ i b, ampLine i s.trace = some b → i < s.cfg.cap → s.amp[i]? = some b
  led : ∀ i b, ledLine i s.trace = some b → i < s.count → s.led[i]? = some b
  sel : selectLine s.trace = none ∧ s.sel = false ∨ selectLine s.trace = some s.sel

/-! ## The end of a run -/

/-- "The run ended safely, in the document's sense": the state after the last teardown (70_reset_and_hazards.md R132). -/
structure State.SafeEnd (s : State) : Prop where
  lifecycle : s.lifecycle = .shutdown
  devLive : s.devLive = false
  txnOpen : s.txnOpen = false
  amps : ∀ b ∈ s.amp, b = false

/-- Once the device is gone the last packet on the wire is the software reset (42_device_commands.md R81, R132). -/
abbrev State.GoneIsReset (s : State) : Prop :=
  s.devLive = false → (packets s.trace).getLast? = some (resetWord s.cfg)

/-! ## Without what the bus peer answered -/

/-- A reply without the echo. -/
def Reply.withoutEcho : Reply → Reply
  | .ok (.echo _) => .ok (.echo 0)
  | r => r

/-- The state without what the bus peer answered or will answer: the answers themselves, the received bytes in the
trace, the receive register, and the echoes among the results. -/
def State.withoutEcho (s : State) : State :=
  { s with
    busIn := ⟨[], 0⟩
    shiftRx := 0
    trace := s.trace.map Event.sent
    replies := s.replies.map Reply.withoutEcho }

/-- The same for an outcome. -/
def outcomeWithoutEcho (o : Host.Outcome State Fault Refusal) : Host.Outcome State Fault Refusal :=
  match o with
  | .next s => .next s.withoutEcho
  | .fault r => .fault r
  | .refused r => .refused r

/-! ## Admission -/

/-- The operation needs `DEV_LIVE` (43_orchestrator.md R85, second column; a wire packet is a transfer). -/
def needsDevice : Instr → Bool
  | .buildControlWord _ | .encodeSetOutput _ => false
  | .registerModule _ | .enableAllAmps | .disableAllAmps | .setLed _ _ | .readButtons | .isPressed _
  | .registryTeardown => false
  | .wrctrl _ | .swrst | .wrupd _ | .transfer _ | .sendControlRegister | .softReset | .setOutput _ | .deviceTeardown
  | .openTransaction | .closeTransaction | .initializeBoard | .stepControlCycle | .setOutputs _ => true

/-- The lifecycle states the operation is admitted in (R85, third column). -/
def admittedIn : Instr → Lifecycle → Bool
  | .registerModule _, l => l == .uninitialized || l == .initializing
  | .initializeBoard, l => l == .uninitialized
  | .stepControlCycle, l | .setOutputs _, l | .enableAllAmps, l | .setLed _ _, l | .readButtons, l
  | .isPressed _, l => l == .ready
  | .disableAllAmps, l | .registryTeardown, l => l != .shutdown
  | .wrctrl _, _ | .swrst, _ | .wrupd _, _ | .buildControlWord _, _ | .encodeSetOutput _, _ | .transfer _, _
  | .sendControlRegister, _ | .softReset, _ | .setOutput _, _ | .deviceTeardown, _ | .openTransaction, _
  | .closeTransaction, _ => true

/-- The call is admitted (R85). -/
def admitted (i : Instr) (s : State) : Bool :=
  (!needsDevice i || s.devLive) && admittedIn i s.lifecycle

/-- The operands are such as can be written down (R60, R100), and a `register` that is not answered with an error is at
position `COUNT` (R86). -/
def operandsGiven (i : Instr) (s : State) : Bool :=
  match i with
  | .wrctrl f | .buildControlWord f => decide (f.Fits s.cfg.layout)
  | .isPressed role => decide (role < s.cfg.nbtn)
  | .registerModule position => s.count == s.cfg.cap || position == s.count
  | _ => true

end Sys2Proof.Machine
end

