-- ==== Sys2Proof/Certificates/Slice0/Obligations.lean ====
section
/-! DEFINITION. The statements for the provers, each from the numbered rules of spec/ that OBLIGATIONS.json cites. -/

open Sys2Proof Sys2Proof.Machine

/-! ## Reset -/

/-- R29: the reset value of every element, for every value of the parameters. (R29 leaves `SHIFT_TX`, `SHIFT_RX`
unspecified, and nothing is said of them here; the values of `DEV_LIVE`, `AMP`, `BTN`, `TRACE` are the spec's
decisions D18, D19, D21, D1.) -/
def Obligations.ResetLeavesTheStatedValues : Prop :=
  ∀ c : Config, let s := State.resetWith c
    s.cfg = c ∧ s.ctrlImage = c.ctrlDefault ∧ s.ctrlWord = buildControlWord c c.ctrlDefault ∧ s.devLive = true ∧
    s.txnOpen = false ∧ s.sel = false ∧ s.modeOn = false ∧ s.lifecycle = .uninitialized ∧ s.count = 0 ∧
    s.out = [] ∧ s.pos = [] ∧ s.led = [] ∧ s.amp.length = c.cap ∧ (∀ b ∈ s.amp, b = false) ∧
    s.btn.length = c.nbtn ∧ (∀ b ∈ s.btn, b = false) ∧ s.trace = []

/-- R13, R52: the machine's reset state is that of the default parameters (log 1, the model's choice; the numbers are
the spec's defaults, its decision D4), and there `CTRL_WORD` is `0x4000E0`. -/
def Obligations.DefaultControlWordAtReset : Prop :=
  State.reset = State.resetWith .default ∧ State.reset.ctrlWord = 0x4000E0

/-- The invariants hold after reset, for every well-formed choice of the parameters. -/
def Obligations.ResetMeetsInvariants : Prop :=
  ∀ c : Config, c.Wf → (State.resetWith c).Inv ∧ (State.resetWith c).BusBracketed ∧
    (State.resetWith c).DacBeforeAmps ∧ (State.resetWith c).LinesRecorded

/-! ## The encoder -/

/-- R61: for every layout that meets the constraint of R5 and every tuple of field values, each field reads back from
the built word, bits 23:20 are `OPC_WRITE_CTRL`, and every bit that belongs to no field and not to the opcode is 0. -/
def Obligations.ControlWordFieldsRoundTrip : Prop :=
  ∀ (c : Config) (f : CtrlFields), c.layout.Wf → f.Fits c.layout →
    (∀ a : CtrlField, extractField (buildControlWord c f) (c.layout.get a) = (f.get a).setWidth 24) ∧
    (buildControlWord c f).extractLsb' 20 4 = c.opcWriteCtrl ∧
    ∀ i < 20, (∀ a : CtrlField, i < (c.layout.get a).lsb ∨ (c.layout.get a).lsb + (c.layout.get a).width ≤ i) →
      (buildControlWord c f).getLsbD i = false

/-- R60: with the default layout and opcode (the spec's default numbers, log 1), `w = 0x400000 | cv << 9 | ovr << 8 |
b2c << 7 | ets << 6 | iro << 5 | pv << 3 | ra`. -/
def Obligations.ControlWordOfDefaultLayout : Prop :=
  ∀ f : CtrlFields, f.Fits .standard →
    (buildControlWord .default f).toNat = 0x400000 + f.cv.toNat * 512 + f.ovr.toNat * 256 + f.b2c.toNat * 128 +
      f.ets.toNat * 64 + f.iro.toNat * 32 + f.pv.toNat * 8 + f.ra.toNat

/-- R62: `packet[23:20] = OPC_WRITE_UPDATE`, `packet[19:16] = 0`, and the value stands in the low 16 bits unchanged.
-/
def Obligations.SetOutputPacketFields : Prop :=
  ∀ (c : Config) (v : Value16),
    (encodeSetOutput c v).extractLsb' 20 4 = c.opcWriteUpdate ∧
    (encodeSetOutput c v).extractLsb' 16 4 = 0 ∧
    (encodeSetOutput c v).extractLsb' 0 16 = v

/-- R63: `decodeSetOutput(encodeSetOutput(v)) = v` for all 65536 values, that is, the low two transmit bytes read as
signed-16 give `v`. -/
def Obligations.SetOutputRoundTrip : Prop :=
  ∀ (c : Config) (v : Int), -32768 ≤ v → v ≤ 32767 →
    decodeSetOutput (encodeSetOutput c (u16 v)) = v ∧
    s16 ((toBytes (encodeSetOutput c (u16 v))).2.1 ++ (toBytes (encodeSetOutput c (u16 v))).2.2) = v

/-- R65: `fromBytes(toBytes(w)) = w` for every packet and `toBytes(fromBytes(bs)) = bs` for every three bytes; the
three bytes are `w[23:16]`, `w[15:8]`, `w[7:0]`. -/
def Obligations.ByteSlicingRoundTrip : Prop :=
  (∀ w : Packet, fromBytes (toBytes w).1 (toBytes w).2.1 (toBytes w).2.2 = w ∧
    toBytes w = (w.extractLsb' 16 8, w.extractLsb' 8 8, w.extractLsb' 0 8)) ∧
  ∀ b0 b1 b2 : Byte, toBytes (fromBytes b0 b1 b2) = (b0, b1, b2) ∧ fromBytes b0 b1 b2 = b0 ++ b1 ++ b2

/-- R32: the 24 bits of a frame leave in the order `f[23]`, `f[22]`, ..., `f[0]`. -/
def Obligations.FrameBitsLeaveMostSignificantFirst : Prop :=
  ∀ w : Packet, bitsMsbFirst (toBytes w).1 ++ bitsMsbFirst (toBytes w).2.1 ++ bitsMsbFirst (toBytes w).2.2 =
    (List.range 24).map fun k => w.getLsbD (23 - k)

/-- R60: `buildControlWord` answers the opcode and the seven field values OR-combined, each at its place, and changes
nothing, in every state. -/
def Obligations.BuildControlWordAnswersThePacket : Prop :=
  ∀ (f : CtrlFields) (s : State), f.Fits s.cfg.layout →
    exec (.buildControlWord f) s =
      .next { s with replies := s.replies ++ [.ok (.packet
        (s.cfg.opcWriteCtrl.setWidth 24 <<< 20
          ||| f.cv.setWidth 24 <<< s.cfg.layout.cv.lsb ||| f.ovr.setWidth 24 <<< s.cfg.layout.ovr.lsb
          ||| f.b2c.setWidth 24 <<< s.cfg.layout.b2c.lsb ||| f.ets.setWidth 24 <<< s.cfg.layout.ets.lsb
          ||| f.iro.setWidth 24 <<< s.cfg.layout.iro.lsb ||| f.pv.setWidth 24 <<< s.cfg.layout.pv.lsb
          ||| f.ra.setWidth 24 <<< s.cfg.layout.ra.lsb))] }

/-- R62: `encodeSetOutput` answers the opcode and the zero-extended value, and changes nothing, in every state. -/
def Obligations.EncodeSetOutputAnswersThePacket : Prop :=
  ∀ (v : Value16) (s : State),
    exec (.encodeSetOutput v) s =
      .next { s with replies := s.replies ++
        [.ok (.packet (s.cfg.opcWriteUpdate.setWidth 24 <<< 20 ||| v.setWidth 24))] }

/-! ## The serializer -/

/-- R67: `open` outside a transaction applies the mode, exchanges `DUMMY_BYTE`, asserts select, in that order; inside
one it answers `PreconditionViolation` and changes nothing. Everything not named is unchanged. (The mode at every
`open` is the spec's decision D8.) -/
def Obligations.OpenAppliesModeThenSelects : Prop :=
  ∀ s : State, s.devLive = true →
    (s.txnOpen = false → ∃ r bus tx rx, exec .openTransaction s = .next { s with
        txnOpen := true
        sel := true
        modeOn := true
        busIn := bus
        shiftTx := tx
        shiftRx := rx
        trace := s.trace ++ [.modeApplied, .exchange s.cfg.dummyByte r, .selectAsserted]
        replies := s.replies ++ [.ok .none] }) ∧
    (s.txnOpen = true →
      exec .openTransaction s = .next { s with replies := s.replies ++ [.error .preconditionViolation] })

/-- R68: `close` inside a transaction deasserts select and then releases the mode; outside one it answers
`PreconditionViolation` and changes nothing. Everything not named is unchanged. (The order and the error
are the spec's decisions D9, D31.) -/
def Obligations.CloseDeselectsThenReleasesMode : Prop :=
  ∀ s : State, s.devLive = true →
    (s.txnOpen = true → exec .closeTransaction s = .next { s with
        txnOpen := false
        sel := false
        modeOn := false
        trace := s.trace ++ [.selectDeasserted, .modeReleased]
        replies := s.replies ++ [.ok .none] }) ∧
    (s.txnOpen = false →
      exec .closeTransaction s = .next { s with replies := s.replies ++ [.error .preconditionViolation] })

/-- R69: `transfer` inside a transaction sends the three bytes of any packet and answers the three bytes received;
outside one it answers `PreconditionViolation` and changes nothing. Everything not named is unchanged. (The byte order
of the answer is the spec's decision D11.) -/
def Obligations.TransferSendsThreeBytes : Prop :=
  ∀ (w : Packet) (s : State), s.devLive = true →
    (s.txnOpen = true → ∃ r0 r1 r2 bus tx rx, exec (.transfer w) s = .next { s with
        busIn := bus
        shiftTx := tx
        shiftRx := rx
        trace := s.trace ++
          [.exchange (toBytes w).1 r0, .exchange (toBytes w).2.1 r1, .exchange (toBytes w).2.2 r2]
        replies := s.replies ++ [.ok (.echo (fromBytes r0 r1 r2))] }) ∧
    (s.txnOpen = false →
      exec (.transfer w) s = .next { s with replies := s.replies ++ [.error .preconditionViolation] })

/-- The echo is free (P5(f)): for every packet and every 24-bit value there is a state in which `transfer` of that
packet answers that value. The states differ in `busIn`, the model's own field (log 4). -/
def Obligations.EchoIsFree : Prop :=
  ∀ w e : Packet, ∃ s t : State, s.cfg = .default ∧ exec (.transfer w) s = .next t ∧
    t.replies = [.ok (.echo e)]

/-- S3: with a bus double that echoes the bytes sent, `transfer` answers the packet sent. The answers are those of the
model's own field `busIn` (log 4). -/
def Obligations.EchoingBusReturnsThePacket : Prop :=
  ∀ (w : Packet) (s : State) (rest : List Byte), s.devLive = true → s.txnOpen = true →
    s.busIn.script = (toBytes w).1 :: (toBytes w).2.1 :: (toBytes w).2.2 :: rest →
    ∃ t, exec (.transfer w) s = .next t ∧ t.replies = s.replies ++ [.ok (.echo w)] ∧ t.busIn.script = rest

/-- R75: the bit-level shift of 24 periods, from the registers a transfer starts with, sends the bits of the three
bytes that the byte-level events show, receives those of the three answers, and leaves the registers as the byte-level
transfer leaves them. -/
def Obligations.BitLevelShiftRefinesTransfer : Prop :=
  ∀ (w : Packet) (s : State), s.devLive = true → s.txnOpen = true →
    ∃ b0 b1 b2 r0 r1 r2 t, exec (.transfer w) s = .next t ∧
      t.trace = s.trace ++ [.exchange b0 r0, .exchange b1 r1, .exchange b2 r2] ∧
      t.replies = s.replies ++ [.ok (.echo t.shiftRx)] ∧
      clockPeriods (bitsMsbFirst r0 ++ bitsMsbFirst r1 ++ bitsMsbFirst r2) ⟨w, s.shiftRx⟩ =
        (bitsMsbFirst b0 ++ bitsMsbFirst b1 ++ bitsMsbFirst b2, ⟨t.shiftTx, t.shiftRx⟩)

/-! ## Device commands -/

/-- R78: `sendControlRegister` sends `CTRL_WORD` inside a transaction, and outside one answers `PreconditionViolation`
with no event. -/
def Obligations.SendControlRegisterSendsTheControlWord : Prop :=
  ∀ s : State, s.devLive = true →
    (s.txnOpen = true → ∃ t, exec .sendControlRegister s = .next t ∧ PacketSent s.ctrlWord s t) ∧
    (s.txnOpen = false →
      exec .sendControlRegister s = .next { s with replies := s.replies ++ [.error .preconditionViolation] })

/-- R79: `softReset` sends `resetWord()`, and outside a transaction answers `PreconditionViolation` with no event.
(The packet is the spec's decision D6.) -/
def Obligations.SoftResetSendsTheResetWord : Prop :=
  ∀ s : State, s.devLive = true →
    (s.txnOpen = true → ∃ t, exec .softReset s = .next t ∧
      PacketSent ((s.cfg.opcSoftReset.setWidth 24 <<< 20) ||| s.cfg.softResetPayload.setWidth 24) s t) ∧
    (s.txnOpen = false →
      exec .softReset s = .next { s with replies := s.replies ++ [.error .preconditionViolation] })

/-- R80: `setOutput` sends `encodeSetOutput(value)` and writes no state, `OUT` in particular; outside a transaction it
answers `PreconditionViolation` with no event. -/
def Obligations.SetOutputSendsTheValue : Prop :=
  ∀ (v : Value16) (s : State), s.devLive = true →
    (s.txnOpen = true → ∃ t, exec (.setOutput v) s = .next t ∧ PacketSent (encodeSetOutput s.cfg v) s t) ∧
    (s.txnOpen = false →
      exec (.setOutput v) s = .next { s with replies := s.replies ++ [.error .preconditionViolation] })

/-- The wire packets as instructions (log 6, the model's choice): `WRCTRL`, `SWRST` and `WRUPD` send the packet the
encoder builds inside a transaction, and outside one answer `PreconditionViolation` with no event. -/
def Obligations.WirePacketsAreSent : Prop :=
  ∀ s : State, s.devLive = true →
    (s.txnOpen = true →
      (∀ f : CtrlFields, f.Fits s.cfg.layout →
        ∃ t, exec (.wrctrl f) s = .next t ∧ PacketSent (buildControlWord s.cfg f) s t) ∧
      (∃ t, exec .swrst s = .next t ∧ PacketSent (resetWord s.cfg) s t) ∧
      (∀ v : Value16, ∃ t, exec (.wrupd v) s = .next t ∧ PacketSent (encodeSetOutput s.cfg v) s t)) ∧
    (s.txnOpen = false →
      (∀ f : CtrlFields, f.Fits s.cfg.layout →
        exec (.wrctrl f) s = .next { s with replies := s.replies ++ [.error .preconditionViolation] }) ∧
      exec .swrst s = .next { s with replies := s.replies ++ [.error .preconditionViolation] } ∧
      ∀ v : Value16,
        exec (.wrupd v) s = .next { s with replies := s.replies ++ [.error .preconditionViolation] })

/-- R81: device teardown closes a transaction left open, sends the software reset in a fresh transaction, and the
device is gone; it never fails. Everything not named is unchanged. (Rests on the spec's decision D18.) -/
def Obligations.DeviceTeardownResetsTheDac : Prop :=
  ∀ s : State, s.devLive = true →
    ∃ evs bus tx rx, exec .deviceTeardown s = .next { s with
        devLive := false
        txnOpen := false
        sel := false
        modeOn := false
        busIn := bus
        shiftTx := tx
        shiftRx := rx
        trace := s.trace ++ evs
        replies := s.replies ++ [.ok .none] } ∧
      evs.map Event.sent =
        (if s.txnOpen then closeShape else []) ++ transactionShape s.cfg [resetWord s.cfg]

/-! ## The orchestrator -/

/-- R86: `register` answers `CapacityExceeded` when the registry is full, whatever the position, with nothing changed;
at position `COUNT` it appends a module record, initialises the module and answers the position; at any other position
it is refused. Everything not named is unchanged. (The refusal and the handle are the
spec's decision D13, the entries its decision D19.) -/
def Obligations.RegisterAppendsAModule : Prop :=
  ∀ (position : Nat) (s : State), s.lifecycle = .uninitialized ∨ s.lifecycle = .initializing →
    (s.count = s.cfg.cap → exec (.registerModule position) s =
      .next { s with replies := s.replies ++ [.error .capacityExceeded] }) ∧
    (s.count ≠ s.cfg.cap → position = s.count → exec (.registerModule position) s = .next { s with
      out := s.out ++ [0]
      pos := s.pos ++ [0]
      led := s.led ++ [false]
      amp := s.amp.set s.count false
      count := s.count + 1
      trace := s.trace ++ [.modInit s.count]
      replies := s.replies ++ [.ok (.handle s.count)] }) ∧
    (s.count ≠ s.cfg.cap → position ≠ s.count →
      exec (.registerModule position) s = .refused .positionNotCount)

/-- R88: `initialize` with no transaction open brings the board up in the eight phases, in order, and ends in `Ready`
with every registered amp and LED on; with a transaction left open it ends in `Initializing` after phases 1 to 4, with
`PreconditionViolation`, no DAC packet sent and no amp enabled. The premises on lengths are clauses of the invariants.
Everything not named is unchanged. (Rests on the spec's decisions D15, D20.) -/
def Obligations.InitializeBringsTheBoardUp : Prop :=
  ∀ s : State, s.devLive = true → s.lifecycle = .uninitialized →
    (s.txnOpen = false → s.count ≤ s.amp.length → s.led.length = s.count →
      ∃ evs bus tx rx, exec .initializeBoard s = .next { s with
          lifecycle := .ready
          sel := false
          modeOn := false
          amp := List.replicate s.count true ++ s.amp.drop s.count
          led := List.replicate s.count true
          busIn := bus
          shiftTx := tx
          shiftRx := rx
          trace := s.trace ++ evs
          replies := s.replies ++ [.ok .none] } ∧
        evs.map Event.sent =
          [.gpioUp, .clockUp, .busUp] ++ (List.range s.count).map Event.modInit ++ bringUpShape s ++
            (List.range s.count).map (fun i => Event.amp i true) ++
            (List.range s.count).map fun i => Event.led i true) ∧
    (s.txnOpen = true → exec .initializeBoard s = .next { s with
      lifecycle := .initializing
      trace := s.trace ++ ([.gpioUp, .clockUp, .busUp] ++ (List.range s.count).map Event.modInit)
      replies := s.replies ++ [.error .preconditionViolation] })

/-- R89: the events of a successful `initialize` hold three transactions, of reset, control and zero-output packets in
that order, and what stands before the first write that enables an amp is exactly the bring-up events, the module
initialisations and those three transactions, each with its closing `S-`: the `S-` of the third precedes every
`A(i, true)`, and the bus is outside a transaction there. (Rests on the spec's decisions D15, D20.) -/
def Obligations.InitializeOrdersDacBeforeAmps : Prop :=
  ∀ s : State, s.devLive = true → s.lifecycle = .uninitialized → s.txnOpen = false →
    ∃ t evs, exec .initializeBoard s = .next t ∧ t.trace = s.trace ++ evs ∧
      let n := s.cfg.initFanout.packets s.count
      let sent := [List.replicate n (resetWord s.cfg), List.replicate n s.ctrlWord,
        List.replicate n (encodeSetOutput s.cfg 0)]
      let before := evs.takeWhile fun e => match e with | .amp _ true => false | _ => true
      transactions evs = sent ∧ transactions before = sent ∧
      before.map Event.sent =
        [.gpioUp, .clockUp, .busUp] ++ (List.range s.count).map Event.modInit ++ bringUpShape s ∧
      busPhaseFrom s.cfg.dummyByte .idle before = some .idle

/-- R90: `stepControlCycle` steps every registered module, caches its value and its position, and then sends all
cached values in ascending position in exactly one transaction; with a transaction left open it has stepped every
module and cached the new values when its `open` raises, and no byte has been sent. The values and positions are the
modules' own, free. The premises on lengths are clauses of the invariants. Everything not named is unchanged. (Rests
on the spec's decision D17.) -/
def Obligations.StepControlCycleSendsAllOutputs : Prop :=
  ∀ s : State, s.devLive = true → s.lifecycle = .ready → s.out.length = s.count → s.pos.length = s.count →
    ∃ (answers : List (Value16 × Position32)) (modStep : Draws Value16) (modPos : Draws Position32),
      answers.length = s.count ∧
      (s.txnOpen = false → ∃ evs bus tx rx, exec .stepControlCycle s = .next { s with
          out := answers.map Prod.fst
          pos := answers.map Prod.snd
          sel := false
          modeOn := false
          busIn := bus
          stepIn := modStep
          posIn := modPos
          shiftTx := tx
          shiftRx := rx
          trace := s.trace ++ (moduleEvents 0 answers ++ evs)
          replies := s.replies ++ [.ok .none] } ∧
        evs.map Event.sent = transactionShape s.cfg (answers.map fun a => encodeSetOutput s.cfg a.1)) ∧
      (s.txnOpen = true → exec .stepControlCycle s = .next { s with
        out := answers.map Prod.fst
        pos := answers.map Prod.snd
        stepIn := modStep
        posIn := modPos
        trace := s.trace ++ moduleEvents 0 answers
        replies := s.replies ++ [.error .preconditionViolation] })

/-- R91: `setOutputs` answers `OutOfRange` with nothing changed when the list is longer than `COUNT`; otherwise it
writes the first positions and sends them in one transaction, or, with a transaction left open, writes them and
answers `PreconditionViolation`. Everything not named is unchanged. (The short list and the order of checks are the
spec's decisions D16, D22.) -/
def Obligations.SetOutputsSendsTheValues : Prop :=
  ∀ (values : List Value16) (s : State), s.devLive = true → s.lifecycle = .ready →
    (s.count < values.length →
      exec (.setOutputs values) s = .next { s with replies := s.replies ++ [.error .outOfRange] }) ∧
    (values.length ≤ s.count → s.txnOpen = true → exec (.setOutputs values) s = .next { s with
      out := values ++ s.out.drop values.length
      replies := s.replies ++ [.error .preconditionViolation] }) ∧
    (values.length ≤ s.count → s.txnOpen = false → ∃ evs bus tx rx, exec (.setOutputs values) s = .next { s with
        out := values ++ s.out.drop values.length
        sel := false
        modeOn := false
        busIn := bus
        shiftTx := tx
        shiftRx := rx
        trace := s.trace ++ evs
        replies := s.replies ++ [.ok .none] } ∧
      evs.map Event.sent = transactionShape s.cfg (values.map (encodeSetOutput s.cfg)))

/-- R93: the events of a successful `stepControlCycle` or `setOutputs` hold exactly one transaction, and it lists one
`WRUPD` packet per position handled, in ascending position. -/
def Obligations.OneTransactionPerBatch : Prop :=
  ∀ s : State, s.devLive = true → s.lifecycle = .ready → s.txnOpen = false →
    s.out.length = s.count → s.pos.length = s.count →
    (∃ t evs, exec .stepControlCycle s = .next t ∧ t.trace = s.trace ++ evs ∧ t.out.length = s.count ∧
      transactions evs = [t.out.map (encodeSetOutput s.cfg)]) ∧
    ∀ values : List Value16, values.length ≤ s.count →
      ∃ t evs, exec (.setOutputs values) s = .next t ∧ t.trace = s.trace ++ evs ∧
        transactions evs = [values.map (encodeSetOutput s.cfg)]

/-- R92: registry teardown writes every amp line of the board's capacity down, then resets the DAC if the device is
live, then the lifecycle is `Shutdown`; it never fails. The premise on the length of `AMP` is a clause of the
invariants. Everything not named is unchanged. (Rests on the spec's decision D18.) -/
def Obligations.RegistryTeardownDisablesAmpsThenDevice : Prop :=
  ∀ s : State, s.lifecycle ≠ .shutdown → s.amp.length = s.cfg.cap →
    (s.devLive = true → ∃ evs bus tx rx, exec .registryTeardown s = .next { s with
        lifecycle := .shutdown
        devLive := false
        txnOpen := false
        sel := false
        modeOn := false
        amp := List.replicate s.cfg.cap false
        busIn := bus
        shiftTx := tx
        shiftRx := rx
        trace := s.trace ++ ((List.range s.cfg.cap).map (fun i => Event.amp i false) ++ evs)
        replies := s.replies ++ [.ok .none] } ∧
      evs.map Event.sent =
        (if s.txnOpen then closeShape else []) ++ transactionShape s.cfg [resetWord s.cfg]) ∧
    (s.devLive = false → exec .registryTeardown s = .next { s with
        lifecycle := .shutdown
        amp := List.replicate s.cfg.cap false
        trace := s.trace ++ (List.range s.cfg.cap).map (fun i => Event.amp i false)
        replies := s.replies ++ [.ok .none] })

/-- R132: after registry teardown the run has ended safely, and the last packet on the wire is the software reset,
whether the device was still live or had been torn down before. (The premise `GoneIsReset` is an invariant, stated by
`StepKeepsGoneIsReset`. Rests on the spec's decision D18.) -/
def Obligations.RegistryTeardownEndsSafely : Prop :=
  ∀ s : State, s.Inv → s.GoneIsReset → s.lifecycle ≠ .shutdown →
    ∃ t, exec .registryTeardown s = .next t ∧ t.SafeEnd ∧
      (packets t.trace).getLast? = some (resetWord s.cfg)

/-! ## Board lines -/

/-- R96: `enableAllAmps` writes the amp line of every registered position, in ascending order, and no other. (The
spec's decision D19.) -/
def Obligations.EnableAllAmpsWritesRegisteredPositions : Prop :=
  ∀ s : State, s.lifecycle = .ready → s.count ≤ s.amp.length →
    exec .enableAllAmps s = .next { s with
      amp := List.replicate s.count true ++ s.amp.drop s.count
      trace := s.trace ++ (List.range s.count).map (fun i => Event.amp i true)
      replies := s.replies ++ [.ok .none] }

/-- R97: `disableAllAmps` writes the amp line of all `CAP` positions down, in every lifecycle state but `Shutdown`. -/
def Obligations.DisableAllAmpsWritesAllPositions : Prop :=
  ∀ s : State, s.lifecycle ≠ .shutdown → s.amp.length = s.cfg.cap →
    exec .disableAllAmps s = .next { s with
      amp := List.replicate s.cfg.cap false
      trace := s.trace ++ (List.range s.cfg.cap).map (fun i => Event.amp i false)
      replies := s.replies ++ [.ok .none] }

/-- R98: `setLed` writes the line and the entry of a registered position; at or past `COUNT` it answers `OutOfRange`
and changes nothing. -/
def Obligations.SetLedIsBoundsChecked : Prop :=
  ∀ (position : Nat) (lit : Bool) (s : State), s.lifecycle = .ready →
    (position < s.count → exec (.setLed position lit) s = .next { s with
      led := s.led.set position lit
      trace := s.trace ++ [.led position lit]
      replies := s.replies ++ [.ok .none] }) ∧
    (s.count ≤ position →
      exec (.setLed position lit) s = .next { s with replies := s.replies ++ [.error .outOfRange] })

/-- R99: `readButtons` polls every button in ascending order, latches `m > THRESH[j]` and answers the magnitudes,
which are free. The premise on the length of `BTN` is a clause of the invariants. Everything not named is unchanged.
(The comparison and the answer are the spec's decision D21.) -/
def Obligations.ReadButtonsLatchesThresholds : Prop :=
  ∀ s : State, s.lifecycle = .ready → s.btn.length = s.cfg.nbtn →
    ∃ (ms : List Nat) (sense : Draws Nat), ms.length = s.cfg.nbtn ∧
      exec .readButtons s = .next { s with
        btn := List.zipWith (fun m threshold => decide (threshold < m)) ms s.cfg.thresh
        senseIn := sense
        trace := s.trace ++ buttonEvents 0 ms
        replies := s.replies ++ [.ok (.magnitudes ms)] }

/-- R100: `isPressed` answers the latch of a button and changes nothing. (The spec's decision D21.) -/
def Obligations.IsPressedAnswersTheLatch : Prop :=
  ∀ (role : Nat) (b : Bool) (s : State), s.lifecycle = .ready → role < s.cfg.nbtn → s.btn[role]? = some b →
    exec (.isPressed role) s = .next { s with replies := s.replies ++ [.ok (.pressed b)] }

/-! ## Admission and errors -/

/-- R85, R110: a call answers a next state exactly when the admission table admits it, its operands can be written down
and a `register` that is not answered with an error is at position `COUNT`; every other call is refused, and none
faults. The model's choices: a call whose operands the spec says cannot be written down (a value wider than its field, a
role outside 0 to `NBTN`-1) is refused (log 13), beside the refusals R110 lists, and a wire packet needs what `transfer`
needs (log 6). -/
def Obligations.RefusedExactlyWhenNotAdmitted : Prop :=
  ∀ (i : Instr) (s : State),
    ((admitted i s && operandsGiven i s) = true → ∃ t, exec i s = .next t) ∧
    ((admitted i s && operandsGiven i s) = false → ∃ r, exec i s = .refused r)

/-- R85: the refusals by name. A call that needs the device is refused as `deviceGone` after device teardown, and a call
the lifecycle does not admit is refused as `lifecycleNotAdmitted`. R85 gives the conditions; the two names, and that the
device column is looked at before the lifecycle column, are the model's choice (log 14), as is the row of a wire packet
(log 6). -/
def Obligations.RefusalsNameTheAdmissionRow : Prop :=
  ∀ (i : Instr) (s : State),
    (needsDevice i = true → s.devLive = false → exec i s = .refused .deviceGone) ∧
    (needsDevice i = false ∨ s.devLive = true → admittedIn i s.lifecycle = false →
      exec i s = .refused .lifecycleNotAdmitted)

/-- R103, R7: every operation returns exactly one status, one of `Ok` or the three errors. -/
def Obligations.EveryCallReturnsOneReply : Prop :=
  ∀ (i : Instr) (s t : State), exec i s = .next t → ∃ r, t.replies = s.replies ++ [r] ∧ r.statusCode ≤ 3

/-- R104: a failed operation changes nothing but its reply, with two exceptions: the `PreconditionViolation` inside
`stepControlCycle` or `setOutputs`, and inside `initialize`. -/
def Obligations.ErrorsLeaveTheStateUnchanged : Prop :=
  ∀ (i : Instr) (s t : State) (e : Error), exec i s = .next t → t.replies = s.replies ++ [.error e] →
    (e = .preconditionViolation ∧
      (i = .stepControlCycle ∨ i = .initializeBoard ∨ ∃ values, i = .setOutputs values)) ∨
    t = { s with replies := s.replies ++ [.error e] }

/-- R105, R106: which operation raises `CapacityExceeded` and `OutOfRange`, and when. -/
def Obligations.WhoRaisesCapacityAndRangeErrors : Prop :=
  ∀ (i : Instr) (s t : State), exec i s = .next t →
    (t.replies = s.replies ++ [.error .capacityExceeded] ↔
      (∃ position, i = .registerModule position) ∧ s.count = s.cfg.cap) ∧
    (t.replies = s.replies ++ [.error .outOfRange] ↔
      (∃ position lit, i = .setLed position lit ∧ s.count ≤ position) ∨
      ∃ values, i = .setOutputs values ∧ s.count < values.length)

/-- R107: `PreconditionViolation` is raised by a transfer or its wrappers, and by `close`, when no transaction is
open; by `open`, and so by `initialize`, `stepControlCycle` and a `setOutputs` whose list is not too long, when one is
open; and by nothing else. (A wire packet is a transfer, log 6.) -/
def Obligations.WhoRaisesPreconditionViolation : Prop :=
  ∀ (i : Instr) (s t : State), exec i s = .next t →
    (t.replies = s.replies ++ [.error .preconditionViolation] ↔
      (s.txnOpen = false ∧ ((∃ f, i = .wrctrl f) ∨ i = .swrst ∨ (∃ v, i = .wrupd v) ∨ (∃ w, i = .transfer w) ∨
        i = .sendControlRegister ∨ i = .softReset ∨ (∃ v, i = .setOutput v) ∨ i = .closeTransaction)) ∨
      (s.txnOpen = true ∧ (i = .openTransaction ∨ i = .initializeBoard ∨ i = .stepControlCycle ∨
        ∃ values, i = .setOutputs values ∧ values.length ≤ s.count)))

/-! ## Whole-machine rules -/

/-- R84: the transitions of `LIFECYCLE`, and nothing else, change it. -/
def Obligations.LifecycleTransitions : Prop :=
  ∀ (i : Instr) (s t : State), exec i s = .next t →
    t.lifecycle = s.lifecycle ∨
    (i = .initializeBoard ∧ s.lifecycle = .uninitialized ∧
      (t.lifecycle = .ready ∧ t.replies = s.replies ++ [.ok .none] ∨
       t.lifecycle = .initializing ∧ t.replies = s.replies ++ [.error .preconditionViolation])) ∨
    (i = .registryTeardown ∧ s.lifecycle ≠ .shutdown ∧ t.lifecycle = .shutdown)

/-- R12, R41: no step changes the control image, the control word or a parameter. -/
def Obligations.ControlImageIsConstant : Prop :=
  ∀ s t : State, step s = .next t →
    t.cfg = s.cfg ∧ t.ctrlImage = s.ctrlImage ∧ t.ctrlWord = s.ctrlWord

/-- R18: `DEV_LIVE` is written false by device teardown, alone or inside registry teardown, and never true again. -/
def Obligations.DeviceIsNeverRevived : Prop :=
  ∀ (i : Instr) (s t : State), exec i s = .next t →
    (s.devLive = false → t.devLive = false) ∧
    (t.devLive ≠ s.devLive → i = .deviceTeardown ∨ i = .registryTeardown)

/-- R20, R38: events are appended and never reordered or removed; what the host was told stays told. -/
def Obligations.HistoryOnlyGrows : Prop :=
  ∀ s t : State, step s = .next t → s.trace <+: t.trace ∧ s.replies <+: t.replies

/-- R21 to R26: the writers of each element of the registry. `COUNT` never decreases. -/
def Obligations.WritersOfTheRegistry : Prop :=
  ∀ (i : Instr) (s t : State), exec i s = .next t →
    s.count ≤ t.count ∧
    (t.count ≠ s.count → ∃ position, i = .registerModule position) ∧
    (t.out ≠ s.out → (∃ position, i = .registerModule position) ∨ i = .stepControlCycle ∨
      ∃ values, i = .setOutputs values) ∧
    (t.pos ≠ s.pos → (∃ position, i = .registerModule position) ∨ i = .stepControlCycle) ∧
    (t.led ≠ s.led → (∃ position, i = .registerModule position) ∨ i = .initializeBoard ∨
      ∃ position lit, i = .setLed position lit) ∧
    (t.amp ≠ s.amp → (∃ position, i = .registerModule position) ∨ i = .initializeBoard ∨ i = .enableAllAmps ∨
      i = .disableAllAmps ∨ i = .registryTeardown) ∧
    (t.btn ≠ s.btn → i = .readButtons)

/-- R71: an operation that opens a transaction itself leaves none open: `initialize`, `stepControlCycle` and
`setOutputs` where they succeed, device teardown always; where they raise, `TXN_OPEN` is as it was (log 17). -/
def Obligations.ScopedRelease : Prop :=
  ∀ (i : Instr) (s t : State), exec i s = .next t →
    i = .initializeBoard ∨ i = .stepControlCycle ∨ (∃ values, i = .setOutputs values) ∨ i = .deviceTeardown →
    ((∃ v, t.replies = s.replies ++ [.ok v]) → t.txnOpen = false ∧ t.sel = false ∧ t.modeOn = false) ∧
    ((∃ e, t.replies = s.replies ++ [.error e]) → t.txnOpen = s.txnOpen)

/-- R23: no rule reads `POS`: where an instruction answers a next state, it does so from every state that differs in `POS`
alone, and the two next states differ in `POS` alone. -/
def Obligations.PositionsAreNeverRead : Prop :=
  ∀ (i : Instr) (s t : State) (p : List Position32), exec i s = .next t →
    ∃ q, exec i { s with pos := p } = .next { t with pos := q }

/-- R74: no behaviour of the block depends on what the DAC sends back: for every instruction, two states that differ
only in what the bus peer answered or will answer have outcomes that differ only in that. -/
def Obligations.BehaviourIndependentOfEcho : Prop :=
  ∀ (i : Instr) (s s' : State), s.withoutEcho = s'.withoutEcho →
    outcomeWithoutEcho (exec i s) = outcomeWithoutEcho (exec i s')

/-! ## Invariants of the step -/

/-- R27 and R95: every step keeps the invariants. -/
def Obligations.StepKeepsInvariants : Prop :=
  ∀ s t : State, s.Inv → step s = .next t → t.Inv

/-- R34, R72, R123: every step keeps the bracketing of the bus: apply-mode, dummy exchange, assert-select, whole
packets, deassert, release. -/
def Obligations.StepKeepsBusBracketed : Prop :=
  ∀ s t : State, s.BusBracketed → step s = .next t → t.BusBracketed

/-- R40, R124: every step keeps "the DAC before the amps". -/
def Obligations.StepKeepsDacBeforeAmps : Prop :=
  ∀ s t : State, s.DacBeforeAmps → step s = .next t → t.DacBeforeAmps

/-- R25, R24, R16: every step keeps `AMP`, `LED` and `SEL` equal to what was last written to the lines. -/
def Obligations.StepKeepsLinesRecorded : Prop :=
  ∀ s t : State, s.Inv → s.LinesRecorded → step s = .next t → t.LinesRecorded

/-! ## The host port and the encoding -/

/-- A step runs the decoded call: where the bytes at the host port decode to an instruction, the step is `exec` of it
in the state whose port holds the bytes after it. With no byte there the block waits; bytes that are no call are a
fault (the host port is the model's own, log 5). -/
def Obligations.StepRunsTheDecodedCall : Prop :=
  (∀ (s : State) (i : Instr) (rest : List Byte), decode s.hostPort = .ok i rest →
    step s = exec i { s with hostPort := rest }) ∧
  (∀ s : State, s.hostPort = [] → step s = .next s) ∧
  ∀ (s : State) (e : DecodeError), s.hostPort ≠ [] → decode s.hostPort = .error e →
    step s = .fault (.badRequest e)

/-- Placing a word of the table at the host port makes the next step run the instruction the decoder reads from it, and
leaves the other calls at the port. The host port and the bytes of a call are the model's own (logs 5, 7): R58 gives the
host interface no binary encoding. -/
def Obligations.PlacedWordRunsNext : Prop :=
  ∀ (s : State) (nbits w : Nat) (i : Instr), decodeTableWord nbits w = some i →
    step (s.withFetchWord nbits w) = exec i s

/-- Every well-formed instruction is read back from its bytes, whatever follows them, with every operand at every value
the encoding admits. The bytes of a call are the model's own encoding (log 5; the frame of a wire packet with the numbers
of the opcode table, log 7): the spec gives selectors and frames, and no encoding of the arguments. -/
def Obligations.DecodeOfEncode : Prop :=
  ∀ (i : Instr) (rest : List Byte), WellFormed i → decode (encode i ++ rest) = .ok i rest

/-- Each sequence of bytes has one meaning: what the decoder reads is well formed, and the bytes it read are exactly the
encoding of it. The bytes of a call are the model's own encoding (logs 5, 7): the spec gives selectors and frames, and no
encoding of the arguments. -/
def Obligations.EncodeOfDecode : Prop :=
  ∀ (bs rest : List Byte) (i : Instr), decode bs = .ok i rest → WellFormed i ∧ bs = encode i ++ rest

/-- Words written out from R47, R48, R50, R52, R53 and R58 decode to what they stand for. The opcodes, the layout and the
codes are the spec's default numbers (log 1), a request uses them whatever the parameters are (log 7), and that a frame
with another opcode is no request at the host port is the model's choice (log 5). -/
def Obligations.SpecWordsDecode : Prop :=
  decodeTableWord 24 0x4000E0 = some (.wrctrl ⟨0, 0, 1, 1, 1, 0, 0⟩) ∧
  decodeTableWord 24 0x40054B = some (.wrctrl ⟨2, 1, 0, 1, 0, 1, 3⟩) ∧
  decodeTableWord 24 0xF00000 = some .swrst ∧
  decodeTableWord 24 0x30FF9C = some (.wrupd 0xFF9C) ∧
  decodeTableWord 8 0x08 = some .openTransaction ∧
  decodeTableWord 8 0x09 = some .closeTransaction ∧
  decodeTableWord 8 0x10 = some .initializeBoard ∧
  decodeTableWord 8 0x19 = some .registryTeardown ∧
  decodeTableWord 24 0x9ABCDE = none

/-! ## The last packet -/

/-- R18, R81, R132: after reset, and after every step from a state in which it held, a device that is gone has left the
software reset as the last packet on the wire. (Rests on the spec's decision D18.) -/
def Obligations.StepKeepsGoneIsReset : Prop :=
  (∀ c : Config, (State.resetWith c).GoneIsReset) ∧
  ∀ s t : State, s.GoneIsReset → step s = .next t → t.GoneIsReset
end

