-- ==== Sys2Proof/Laws/Decode.lean ====
section
/-! SUPPORT. Reading and writing the parts of a call: each reader gives back what its writer wrote, and what a reader
reads is what its writer would have written. -/

namespace Sys2Proof

/-! ## Bytes of a word -/

/-- The upper and the lower part of a vector make the vector. -/
theorem append_parts {m n : Nat} (v : BitVec (m + n)) : v.extractLsb' n m ++ v.extractLsb' 0 n = v := by
  apply BitVec.eq_of_getLsbD_eq
  intro i hi
  rw [BitVec.getLsbD_append]
  by_cases h : i < n
  · simp [h]
  · simp [h, show i - n < m by omega, show n + (i - n) = i by omega]

/-- The upper part of two vectors end to end. -/
theorem upper_append {m n : Nat} (a : BitVec m) (b : BitVec n) : (a ++ b).extractLsb' n m = a := by
  apply BitVec.eq_of_getLsbD_eq
  intro i hi
  simp [BitVec.getLsbD_append, hi]

/-- The lower part of two vectors end to end. -/
theorem lower_append {m n k : Nat} (a : BitVec m) (b : BitVec n) {j : Nat} (h : j + k ≤ n) :
    (a ++ b).extractLsb' j k = b.extractLsb' j k := by
  apply BitVec.eq_of_getLsbD_eq
  intro i hi
  simp [BitVec.getLsbD_append, hi, show j + i < n by omega]

/-- A part of the upper part. -/
theorem upper_part {m n k : Nat} (a : BitVec m) (b : BitVec n) {j : Nat} :
    (a ++ b).extractLsb' (n + j) k = a.extractLsb' j k := by
  apply BitVec.eq_of_getLsbD_eq
  intro i hi
  simp [BitVec.getLsbD_append, hi, show n + j + i - n = j + i by omega, show ¬ n + j + i < n by omega]

/-- Parts of a vector that stand next to each other. -/
theorem append_adjacent {w m n k : Nat} (v : BitVec w) :
    v.extractLsb' (k + n) m ++ v.extractLsb' k n = v.extractLsb' k (m + n) := by
  apply BitVec.eq_of_getLsbD_eq
  intro i hi
  rw [BitVec.getLsbD_append]
  by_cases h : i < n
  · simp [h, hi]
  · simp [h, hi, show i - n < m by omega, show k + n + (i - n) = k + i by omega]

/-! ## Sequencing -/

/-- Reading on succeeds only after a reading that succeeded. -/
theorem Parsed.andThen_ok {α β : Type} {p : Parsed α} {f : α → List Byte → Parsed β} {v : β} {rest : List Byte}
    (h : p.andThen f = .ok v rest) : ∃ a bs, p = .ok a bs ∧ f a bs = .ok v rest := by
  cases p with
  | ok a bs => exact ⟨a, bs, rfl, h⟩
  | error e => cases h

/-- A changed value is the change of a value read. -/
theorem Parsed.map_ok {α β : Type} {p : Parsed α} {f : α → β} {v : β} {rest : List Byte}
    (h : p.map f = .ok v rest) : ∃ a, p = .ok a rest ∧ f a = v := by
  cases p with
  | ok a bs => cases h; exact ⟨a, rfl, rfl⟩
  | error e => cases h

@[simp] theorem Parsed.andThen_of_ok {α β : Type} (a : α) (bs : List Byte) (f : α → List Byte → Parsed β) :
    (Parsed.ok a bs).andThen f = f a bs := rfl

@[simp] theorem Parsed.map_of_ok {α β : Type} (a : α) (bs : List Byte) (f : α → β) :
    (Parsed.ok a bs).map f = .ok (f a) bs := rfl

/-! ## Reading what was written -/

theorem takeU16_bytes (v : BitVec 16) (rest : List Byte) : takeU16 (bytesU16 v ++ rest) = .ok v rest :=
  congrArg (Parsed.ok · rest) (append_parts (m := 8) (n := 8) v)

theorem takeU24_bytes (v : BitVec 24) (rest : List Byte) : takeU24 (bytesU24 v ++ rest) = .ok v rest :=
  congrArg (Parsed.ok · rest) <| by
    rw [append_adjacent (k := 8) (n := 8) (m := 8), append_parts (m := 16) (n := 8)]

theorem takeU32_bytes (v : BitVec 32) (rest : List Byte) : takeU32 (bytesU32 v ++ rest) = .ok v rest :=
  congrArg (Parsed.ok · rest) <| by
    rw [append_adjacent (k := 16) (n := 8) (m := 8), append_adjacent (k := 8) (n := 8) (m := 16),
      append_parts (m := 24) (n := 8)]

theorem takeIndex_bytes {n : Nat} (h : n < 2 ^ 32) (rest : List Byte) :
    takeIndex (bytesIndex n ++ rest) = .ok n rest := by
  rw [takeIndex, bytesIndex, takeU32_bytes, Parsed.map_of_ok, BitVec.toNat_ofNat, Nat.mod_eq_of_lt h]

theorem takeBool_bytes (b : Bool) (rest : List Byte) : takeBool (bytesBool b ++ rest) = .ok b rest := by
  cases b <;> rfl

theorem takeField_bytes (v : Payload) (rest : List Byte) :
    takeField (bytesU24 (v.setWidth 24) ++ rest) = .ok v rest := by
  have hw : v.setWidth (4 + 20) = 0#4 ++ v := by
    apply BitVec.eq_of_getLsbD_eq
    intro i hi
    rw [BitVec.getLsbD_append, BitVec.getLsbD_setWidth]
    by_cases h : i < 20
    · simp [h, hi]
    · simp [h, BitVec.getLsbD_of_ge v i (Nat.le_of_not_lt h)]
  have h1 : (v.setWidth 24).extractLsb' 20 4 = 0 := hw ▸ upper_append 0#4 v
  have h2 : (v.setWidth 24).extractLsb' 0 20 = v :=
    hw ▸ (lower_append (j := 0) (k := 20) 0#4 v (by omega)).trans (by simp)
  rw [takeField, takeU24_bytes, Parsed.andThen_of_ok, if_pos h1, h2]

theorem takeFields_bytes (f : CtrlFields) (rest : List Byte) : takeFields (bytesFields f ++ rest) = .ok f rest := by
  simp only [bytesFields, CtrlField.all, List.flatMap_cons, List.flatMap_nil, List.append_assoc, List.append_nil,
    takeFields, takeField_bytes, Parsed.andThen_of_ok]
  rfl

theorem takeValueList_bytes (vs : List Value16) (rest : List Byte) :
    takeValueList vs.length (vs.flatMap bytesU16 ++ rest) = .ok vs rest := by
  induction vs with
  | nil => rfl
  | cons v vs ih => simp [takeValueList, takeU16_bytes, ih]

theorem takeValues_bytes {vs : List Value16} (h : vs.length < 2 ^ 16) (rest : List Byte) :
    takeValues (bytesValues vs ++ rest) = .ok vs rest := by
  rw [takeValues, bytesValues, List.append_assoc, takeU16_bytes, Parsed.andThen_of_ok, BitVec.toNat_ofNat,
    Nat.mod_eq_of_lt h, takeValueList_bytes]

/-! ## Writing what was read -/

theorem bytes_of_takeU16 {bs rest : List Byte} {v : BitVec 16} (h : takeU16 bs = .ok v rest) :
    bs = bytesU16 v ++ rest := by
  unfold takeU16 at h
  split at h <;> cases h
  rename_i b1 b0
  simp [bytesU16, upper_append b1 b0, lower_append (j := 0) (k := 8) b1 b0 (by omega)]

theorem bytes_of_takeU24 {bs rest : List Byte} {v : BitVec 24} (h : takeU24 bs = .ok v rest) :
    bs = bytesU24 v ++ rest := by
  unfold takeU24 at h
  split at h <;> cases h
  rename_i b2 b1 b0
  have h2 : (b2 ++ b1 ++ b0).extractLsb' 16 8 = b2 :=
    (upper_part (j := 8) (b2 ++ b1) b0).trans (upper_append b2 b1)
  have h1 : (b2 ++ b1 ++ b0).extractLsb' 8 8 = b1 :=
    (upper_part (j := 0) (b2 ++ b1) b0).trans ((lower_append (j := 0) (k := 8) b2 b1 (by omega)).trans (by simp))
  have h0 : (b2 ++ b1 ++ b0).extractLsb' 0 8 = b0 :=
    (lower_append (j := 0) (k := 8) (b2 ++ b1) b0 (by omega)).trans (by simp)
  simp only [bytesU24, h2, h1, h0, List.cons_append, List.nil_append]

theorem bytes_of_takeU32 {bs rest : List Byte} {v : BitVec 32} (h : takeU32 bs = .ok v rest) :
    bs = bytesU32 v ++ rest := by
  unfold takeU32 at h
  split at h <;> cases h
  rename_i b3 b2 b1 b0
  have h3 : (b3 ++ b2 ++ b1 ++ b0).extractLsb' 24 8 = b3 :=
    (upper_part (j := 16) (b3 ++ b2 ++ b1) b0).trans
      ((upper_part (j := 8) (b3 ++ b2) b1).trans (upper_append b3 b2))
  have h2 : (b3 ++ b2 ++ b1 ++ b0).extractLsb' 16 8 = b2 :=
    (upper_part (j := 8) (b3 ++ b2 ++ b1) b0).trans
      ((upper_part (j := 0) (b3 ++ b2) b1).trans
        ((lower_append (j := 0) (k := 8) b3 b2 (by omega)).trans (by simp)))
  have h1 : (b3 ++ b2 ++ b1 ++ b0).extractLsb' 8 8 = b1 :=
    (upper_part (j := 0) (b3 ++ b2 ++ b1) b0).trans
      ((lower_append (j := 0) (k := 8) (b3 ++ b2) b1 (by omega)).trans (by simp))
  have h0 : (b3 ++ b2 ++ b1 ++ b0).extractLsb' 0 8 = b0 :=
    (lower_append (j := 0) (k := 8) (b3 ++ b2 ++ b1) b0 (by omega)).trans (by simp)
  simp only [bytesU32, h3, h2, h1, h0, List.cons_append, List.nil_append]

theorem bytes_of_takeIndex {bs rest : List Byte} {n : Nat} (h : takeIndex bs = .ok n rest) :
    n < 2 ^ 32 ∧ bs = bytesIndex n ++ rest := by
  obtain ⟨w, hw, rfl⟩ := Parsed.map_ok h
  exact ⟨w.isLt, by simpa [bytesIndex] using bytes_of_takeU32 hw⟩

theorem bytes_of_takeBool {bs rest : List Byte} {b : Bool} (h : takeBool bs = .ok b rest) :
    bs = bytesBool b ++ rest := by
  unfold takeBool at h
  split at h
  · cases h
  · split at h
    · cases h; simp [bytesBool, *]
    · split at h <;> cases h
      simp [bytesBool, *]

theorem bytes_of_takeField {bs rest : List Byte} {v : Payload} (h : takeField bs = .ok v rest) :
    bs = bytesU24 (v.setWidth 24) ++ rest := by
  obtain ⟨w, q, hw, h⟩ := Parsed.andThen_ok h
  split at h
  · rename_i hz
    cases h
    rw [bytes_of_takeU24 hw]
    congr 2
    apply BitVec.eq_of_getLsbD_eq
    intro i hi
    have hz := congrArg (BitVec.getLsbD · (i - 20)) hz
    by_cases hl : i < 20
    · simp [hl, hi]
    · simp only [BitVec.getLsbD_extractLsb', show i - 20 < 4 by omega, show 20 + (i - 20) = i by omega,
        decide_true, Bool.true_and] at hz
      rw [hz]
      simp [hl]
  · cases h

theorem bytes_of_takeFields {bs rest : List Byte} {f : CtrlFields} (h : takeFields bs = .ok f rest) :
    bs = bytesFields f ++ rest := by
  obtain ⟨_, _, h1, h⟩ := Parsed.andThen_ok h
  obtain ⟨_, _, h2, h⟩ := Parsed.andThen_ok h
  obtain ⟨_, _, h3, h⟩ := Parsed.andThen_ok h
  obtain ⟨_, _, h4, h⟩ := Parsed.andThen_ok h
  obtain ⟨_, _, h5, h⟩ := Parsed.andThen_ok h
  obtain ⟨_, _, h6, h⟩ := Parsed.andThen_ok h
  obtain ⟨_, _, h7, h⟩ := Parsed.andThen_ok h
  cases h
  rw [bytes_of_takeField h1, bytes_of_takeField h2, bytes_of_takeField h3, bytes_of_takeField h4,
    bytes_of_takeField h5, bytes_of_takeField h6, bytes_of_takeField h7]
  simp [bytesFields, CtrlField.all, CtrlFields.get]

theorem bytes_of_takeValueList {n : Nat} {bs rest : List Byte} {vs : List Value16}
    (h : takeValueList n bs = .ok vs rest) : vs.length = n ∧ bs = vs.flatMap bytesU16 ++ rest := by
  induction n generalizing bs vs with
  | zero => cases h; simp
  | succ n ih =>
    obtain ⟨_, _, h1, h⟩ := Parsed.andThen_ok h
    obtain ⟨_, h2, rfl⟩ := Parsed.map_ok h
    obtain ⟨hl, hb⟩ := ih h2
    rw [bytes_of_takeU16 h1, hb]
    simp [hl]

theorem bytes_of_takeValues {bs rest : List Byte} {vs : List Value16} (h : takeValues bs = .ok vs rest) :
    vs.length < 2 ^ 16 ∧ bs = bytesValues vs ++ rest := by
  obtain ⟨n, _, h1, h⟩ := Parsed.andThen_ok h
  obtain ⟨hl, hb⟩ := bytes_of_takeValueList h
  refine ⟨by rw [hl]; exact n.isLt, ?_⟩
  rw [bytes_of_takeU16 h1, hb, bytesValues, hl]
  simp

end Sys2Proof
end

