-- ==== Sys2Proof/Laws/Encoder.lean ====
section
/-! SUPPORT. The bits of the encoder's words, and the layout's constraints field by field. -/

namespace Sys2Proof.Machine

/-- Every field is in the list of all fields. -/
theorem CtrlField.mem_all (a : CtrlField) : a ∈ CtrlField.all := by
  cases a <;> decide

/-- In a layout that meets the constraint of R5, two different fields share no bit. -/
theorem CtrlLayout.disjoint_of_wf {l : CtrlLayout} (h : l.Wf) {a b : CtrlField} (hab : a ≠ b) :
    (l.get a).Disjoint (l.get b) := by
  have hp := h.1
  simp only [CtrlField.all, List.pairwise_cons, List.mem_cons, List.not_mem_nil, or_false, forall_eq_or_imp,
    forall_eq] at hp
  cases a <;> cases b <;> first | exact absurd rfl hab | (simp only [hp]) | (exact Or.symm (by simp only [hp]))

/-- In a layout that meets the constraint of R5, every field is inside the payload. -/
theorem CtrlLayout.inside_of_wf {l : CtrlLayout} (h : l.Wf) (a : CtrlField) : (l.get a).lsb + (l.get a).width ≤ 20 :=
  h.2 a (CtrlField.mem_all a)

/-- Field values that fit, field by field. -/
theorem CtrlFields.fits_get {f : CtrlFields} {l : CtrlLayout} (h : f.Fits l) (a : CtrlField) :
    (f.get a).toNat < 2 ^ (l.get a).width :=
  h a (CtrlField.mem_all a)

/-- The bits of a field value at its place. -/
theorem placeField_bit (v : Payload) (p : FieldPos) {i : Nat} (hi : i < 24) :
    (placeField v p).getLsbD i = (decide (p.lsb ≤ i) && v.getLsbD (i - p.lsb)) := by
  by_cases h : p.lsb ≤ i
  · simp [placeField, hi, h, show ¬ i < p.lsb by omega]
  · simp [placeField, h, show i < p.lsb by omega]

/-- A value that fits in `n` bits has no bit from `n` on. -/
theorem bit_past_width {v : Payload} {n j : Nat} (hv : v.toNat < 2 ^ n) (h : n ≤ j) : v.getLsbD j = false := by
  rw [BitVec.getLsbD]
  exact Nat.testBit_lt_two_pow (lt_of_lt_of_le hv (Nat.pow_le_pow_right (by decide) h))

/-- A field value at its place sets no bit outside the field. -/
theorem placeField_bit_outside {v : Payload} {p : FieldPos} (hv : v.toNat < 2 ^ p.width) {i : Nat} (hi : i < 24)
    (h : i < p.lsb ∨ p.lsb + p.width ≤ i) : (placeField v p).getLsbD i = false := by
  rw [placeField_bit _ _ hi]
  rcases h with h | h
  · simp; omega
  · simp [bit_past_width hv (show p.width ≤ i - p.lsb by omega)]

/-- A payload bit of the control word comes from some field. -/
theorem buildControlWord_payload_bit (c : Config) (f : CtrlFields) {i : Nat} (hi : i < 20) :
    (buildControlWord c f).getLsbD i =
      CtrlField.all.any fun a => (placeField (f.get a) (c.layout.get a)).getLsbD i := by
  simp [buildControlWord, CtrlField.all, CtrlFields.get, CtrlLayout.get, hi, Bool.or_assoc]

/-- The three bytes of a packet are its slices (30_encoding.md R46). -/
theorem toBytes_eq (w : Packet) : toBytes w = (w.extractLsb' 16 8, w.extractLsb' 8 8, w.extractLsb' 0 8) := by
  simp only [toBytes, Prod.mk.injEq]
  refine ⟨?_, ?_, ?_⟩ <;> ext i hi <;> interval_cases i <;> simp

/-- `s16` undoes `u16` on signed 16-bit integers (00_scope.md R8). -/
theorem s16_u16 (v : Int) (h1 : -32768 ≤ v) (h2 : v ≤ 32767) : s16 (u16 v) = v := by
  simp only [s16, u16, BitVec.toNat_ofInt]
  split <;> omega

end Sys2Proof.Machine
end

