-- ==== Sys2Proof/Laws/State.lean ====
section
/-! SUPPORT. What each update of the state does to each field: one lemma per field and update, each by unfolding the
update once. -/

namespace Sys2Proof.Machine

/-! ## emit -/

@[simp] theorem State.emit_cfg (s : State) (e : Event) : (s.emit e).cfg = s.cfg := rfl
@[simp] theorem State.emit_ctrlImage (s : State) (e : Event) : (s.emit e).ctrlImage = s.ctrlImage := rfl
@[simp] theorem State.emit_ctrlWord (s : State) (e : Event) : (s.emit e).ctrlWord = s.ctrlWord := rfl
@[simp] theorem State.emit_devLive (s : State) (e : Event) : (s.emit e).devLive = s.devLive := rfl
@[simp] theorem State.emit_txnOpen (s : State) (e : Event) : (s.emit e).txnOpen = s.txnOpen := rfl
@[simp] theorem State.emit_sel (s : State) (e : Event) : (s.emit e).sel = s.sel := rfl
@[simp] theorem State.emit_modeOn (s : State) (e : Event) : (s.emit e).modeOn = s.modeOn := rfl
@[simp] theorem State.emit_shiftTx (s : State) (e : Event) : (s.emit e).shiftTx = s.shiftTx := rfl
@[simp] theorem State.emit_shiftRx (s : State) (e : Event) : (s.emit e).shiftRx = s.shiftRx := rfl
@[simp] theorem State.emit_lifecycle (s : State) (e : Event) : (s.emit e).lifecycle = s.lifecycle := rfl
@[simp] theorem State.emit_count (s : State) (e : Event) : (s.emit e).count = s.count := rfl
@[simp] theorem State.emit_out (s : State) (e : Event) : (s.emit e).out = s.out := rfl
@[simp] theorem State.emit_pos (s : State) (e : Event) : (s.emit e).pos = s.pos := rfl
@[simp] theorem State.emit_led (s : State) (e : Event) : (s.emit e).led = s.led := rfl
@[simp] theorem State.emit_amp (s : State) (e : Event) : (s.emit e).amp = s.amp := rfl
@[simp] theorem State.emit_btn (s : State) (e : Event) : (s.emit e).btn = s.btn := rfl
@[simp] theorem State.emit_trace (s : State) (e : Event) : (s.emit e).trace = s.trace ++ [e] := rfl
@[simp] theorem State.emit_replies (s : State) (e : Event) : (s.emit e).replies = s.replies := rfl
@[simp] theorem State.emit_busIn (s : State) (e : Event) : (s.emit e).busIn = s.busIn := rfl
@[simp] theorem State.emit_stepIn (s : State) (e : Event) : (s.emit e).stepIn = s.stepIn := rfl
@[simp] theorem State.emit_posIn (s : State) (e : Event) : (s.emit e).posIn = s.posIn := rfl
@[simp] theorem State.emit_senseIn (s : State) (e : Event) : (s.emit e).senseIn = s.senseIn := rfl
@[simp] theorem State.emit_hostPort (s : State) (e : Event) : (s.emit e).hostPort = s.hostPort := rfl

/-! ## busMode -/

@[simp] theorem State.busMode_cfg (s : State) (b : Bool) : (s.busMode b).cfg = s.cfg := rfl
@[simp] theorem State.busMode_ctrlImage (s : State) (b : Bool) : (s.busMode b).ctrlImage = s.ctrlImage := rfl
@[simp] theorem State.busMode_ctrlWord (s : State) (b : Bool) : (s.busMode b).ctrlWord = s.ctrlWord := rfl
@[simp] theorem State.busMode_devLive (s : State) (b : Bool) : (s.busMode b).devLive = s.devLive := rfl
@[simp] theorem State.busMode_txnOpen (s : State) (b : Bool) : (s.busMode b).txnOpen = s.txnOpen := rfl
@[simp] theorem State.busMode_sel (s : State) (b : Bool) : (s.busMode b).sel = s.sel := rfl
@[simp] theorem State.busMode_modeOn (s : State) (b : Bool) : (s.busMode b).modeOn = b := rfl
@[simp] theorem State.busMode_shiftTx (s : State) (b : Bool) : (s.busMode b).shiftTx = s.shiftTx := rfl
@[simp] theorem State.busMode_shiftRx (s : State) (b : Bool) : (s.busMode b).shiftRx = s.shiftRx := rfl
@[simp] theorem State.busMode_lifecycle (s : State) (b : Bool) : (s.busMode b).lifecycle = s.lifecycle := rfl
@[simp] theorem State.busMode_count (s : State) (b : Bool) : (s.busMode b).count = s.count := rfl
@[simp] theorem State.busMode_out (s : State) (b : Bool) : (s.busMode b).out = s.out := rfl
@[simp] theorem State.busMode_pos (s : State) (b : Bool) : (s.busMode b).pos = s.pos := rfl
@[simp] theorem State.busMode_led (s : State) (b : Bool) : (s.busMode b).led = s.led := rfl
@[simp] theorem State.busMode_amp (s : State) (b : Bool) : (s.busMode b).amp = s.amp := rfl
@[simp] theorem State.busMode_btn (s : State) (b : Bool) : (s.busMode b).btn = s.btn := rfl
@[simp] theorem State.busMode_trace (s : State) (b : Bool) : (s.busMode b).trace = s.trace ++ [if b then .modeApplied else .modeReleased] := rfl
@[simp] theorem State.busMode_replies (s : State) (b : Bool) : (s.busMode b).replies = s.replies := rfl
@[simp] theorem State.busMode_busIn (s : State) (b : Bool) : (s.busMode b).busIn = s.busIn := rfl
@[simp] theorem State.busMode_stepIn (s : State) (b : Bool) : (s.busMode b).stepIn = s.stepIn := rfl
@[simp] theorem State.busMode_posIn (s : State) (b : Bool) : (s.busMode b).posIn = s.posIn := rfl
@[simp] theorem State.busMode_senseIn (s : State) (b : Bool) : (s.busMode b).senseIn = s.senseIn := rfl
@[simp] theorem State.busMode_hostPort (s : State) (b : Bool) : (s.busMode b).hostPort = s.hostPort := rfl

/-! ## select -/

@[simp] theorem State.select_cfg (s : State) (b : Bool) : (s.select b).cfg = s.cfg := rfl
@[simp] theorem State.select_ctrlImage (s : State) (b : Bool) : (s.select b).ctrlImage = s.ctrlImage := rfl
@[simp] theorem State.select_ctrlWord (s : State) (b : Bool) : (s.select b).ctrlWord = s.ctrlWord := rfl
@[simp] theorem State.select_devLive (s : State) (b : Bool) : (s.select b).devLive = s.devLive := rfl
@[simp] theorem State.select_txnOpen (s : State) (b : Bool) : (s.select b).txnOpen = s.txnOpen := rfl
@[simp] theorem State.select_sel (s : State) (b : Bool) : (s.select b).sel = b := rfl
@[simp] theorem State.select_modeOn (s : State) (b : Bool) : (s.select b).modeOn = s.modeOn := rfl
@[simp] theorem State.select_shiftTx (s : State) (b : Bool) : (s.select b).shiftTx = s.shiftTx := rfl
@[simp] theorem State.select_shiftRx (s : State) (b : Bool) : (s.select b).shiftRx = s.shiftRx := rfl
@[simp] theorem State.select_lifecycle (s : State) (b : Bool) : (s.select b).lifecycle = s.lifecycle := rfl
@[simp] theorem State.select_count (s : State) (b : Bool) : (s.select b).count = s.count := rfl
@[simp] theorem State.select_out (s : State) (b : Bool) : (s.select b).out = s.out := rfl
@[simp] theorem State.select_pos (s : State) (b : Bool) : (s.select b).pos = s.pos := rfl
@[simp] theorem State.select_led (s : State) (b : Bool) : (s.select b).led = s.led := rfl
@[simp] theorem State.select_amp (s : State) (b : Bool) : (s.select b).amp = s.amp := rfl
@[simp] theorem State.select_btn (s : State) (b : Bool) : (s.select b).btn = s.btn := rfl
@[simp] theorem State.select_trace (s : State) (b : Bool) : (s.select b).trace = s.trace ++ [if b then .selectAsserted else .selectDeasserted] := rfl
@[simp] theorem State.select_replies (s : State) (b : Bool) : (s.select b).replies = s.replies := rfl
@[simp] theorem State.select_busIn (s : State) (b : Bool) : (s.select b).busIn = s.busIn := rfl
@[simp] theorem State.select_stepIn (s : State) (b : Bool) : (s.select b).stepIn = s.stepIn := rfl
@[simp] theorem State.select_posIn (s : State) (b : Bool) : (s.select b).posIn = s.posIn := rfl
@[simp] theorem State.select_senseIn (s : State) (b : Bool) : (s.select b).senseIn = s.senseIn := rfl
@[simp] theorem State.select_hostPort (s : State) (b : Bool) : (s.select b).hostPort = s.hostPort := rfl

/-! ## loadTx -/

@[simp] theorem State.loadTx_cfg (s : State) (w : BitVec 24) : (s.loadTx w).cfg = s.cfg := rfl
@[simp] theorem State.loadTx_ctrlImage (s : State) (w : BitVec 24) : (s.loadTx w).ctrlImage = s.ctrlImage := rfl
@[simp] theorem State.loadTx_ctrlWord (s : State) (w : BitVec 24) : (s.loadTx w).ctrlWord = s.ctrlWord := rfl
@[simp] theorem State.loadTx_devLive (s : State) (w : BitVec 24) : (s.loadTx w).devLive = s.devLive := rfl
@[simp] theorem State.loadTx_txnOpen (s : State) (w : BitVec 24) : (s.loadTx w).txnOpen = s.txnOpen := rfl
@[simp] theorem State.loadTx_sel (s : State) (w : BitVec 24) : (s.loadTx w).sel = s.sel := rfl
@[simp] theorem State.loadTx_modeOn (s : State) (w : BitVec 24) : (s.loadTx w).modeOn = s.modeOn := rfl
@[simp] theorem State.loadTx_shiftTx (s : State) (w : BitVec 24) : (s.loadTx w).shiftTx = w := rfl
@[simp] theorem State.loadTx_shiftRx (s : State) (w : BitVec 24) : (s.loadTx w).shiftRx = s.shiftRx := rfl
@[simp] theorem State.loadTx_lifecycle (s : State) (w : BitVec 24) : (s.loadTx w).lifecycle = s.lifecycle := rfl
@[simp] theorem State.loadTx_count (s : State) (w : BitVec 24) : (s.loadTx w).count = s.count := rfl
@[simp] theorem State.loadTx_out (s : State) (w : BitVec 24) : (s.loadTx w).out = s.out := rfl
@[simp] theorem State.loadTx_pos (s : State) (w : BitVec 24) : (s.loadTx w).pos = s.pos := rfl
@[simp] theorem State.loadTx_led (s : State) (w : BitVec 24) : (s.loadTx w).led = s.led := rfl
@[simp] theorem State.loadTx_amp (s : State) (w : BitVec 24) : (s.loadTx w).amp = s.amp := rfl
@[simp] theorem State.loadTx_btn (s : State) (w : BitVec 24) : (s.loadTx w).btn = s.btn := rfl
@[simp] theorem State.loadTx_trace (s : State) (w : BitVec 24) : (s.loadTx w).trace = s.trace := rfl
@[simp] theorem State.loadTx_replies (s : State) (w : BitVec 24) : (s.loadTx w).replies = s.replies := rfl
@[simp] theorem State.loadTx_busIn (s : State) (w : BitVec 24) : (s.loadTx w).busIn = s.busIn := rfl
@[simp] theorem State.loadTx_stepIn (s : State) (w : BitVec 24) : (s.loadTx w).stepIn = s.stepIn := rfl
@[simp] theorem State.loadTx_posIn (s : State) (w : BitVec 24) : (s.loadTx w).posIn = s.posIn := rfl
@[simp] theorem State.loadTx_senseIn (s : State) (w : BitVec 24) : (s.loadTx w).senseIn = s.senseIn := rfl
@[simp] theorem State.loadTx_hostPort (s : State) (w : BitVec 24) : (s.loadTx w).hostPort = s.hostPort := rfl

/-! ## busXfer -/

@[simp] theorem State.busXfer_cfg (s : State) (b : Byte) : (s.busXfer b).2.cfg = s.cfg := rfl
@[simp] theorem State.busXfer_ctrlImage (s : State) (b : Byte) : (s.busXfer b).2.ctrlImage = s.ctrlImage := rfl
@[simp] theorem State.busXfer_ctrlWord (s : State) (b : Byte) : (s.busXfer b).2.ctrlWord = s.ctrlWord := rfl
@[simp] theorem State.busXfer_devLive (s : State) (b : Byte) : (s.busXfer b).2.devLive = s.devLive := rfl
@[simp] theorem State.busXfer_txnOpen (s : State) (b : Byte) : (s.busXfer b).2.txnOpen = s.txnOpen := rfl
@[simp] theorem State.busXfer_sel (s : State) (b : Byte) : (s.busXfer b).2.sel = s.sel := rfl
@[simp] theorem State.busXfer_modeOn (s : State) (b : Byte) : (s.busXfer b).2.modeOn = s.modeOn := rfl
@[simp] theorem State.busXfer_shiftTx (s : State) (b : Byte) : (s.busXfer b).2.shiftTx = s.shiftTx <<< 8 := rfl
@[simp] theorem State.busXfer_shiftRx (s : State) (b : Byte) : (s.busXfer b).2.shiftRx = (s.shiftRx <<< 8) ||| (s.busXfer b).1.setWidth 24 := rfl
@[simp] theorem State.busXfer_lifecycle (s : State) (b : Byte) : (s.busXfer b).2.lifecycle = s.lifecycle := rfl
@[simp] theorem State.busXfer_count (s : State) (b : Byte) : (s.busXfer b).2.count = s.count := rfl
@[simp] theorem State.busXfer_out (s : State) (b : Byte) : (s.busXfer b).2.out = s.out := rfl
@[simp] theorem State.busXfer_pos (s : State) (b : Byte) : (s.busXfer b).2.pos = s.pos := rfl
@[simp] theorem State.busXfer_led (s : State) (b : Byte) : (s.busXfer b).2.led = s.led := rfl
@[simp] theorem State.busXfer_amp (s : State) (b : Byte) : (s.busXfer b).2.amp = s.amp := rfl
@[simp] theorem State.busXfer_btn (s : State) (b : Byte) : (s.busXfer b).2.btn = s.btn := rfl
@[simp] theorem State.busXfer_trace (s : State) (b : Byte) : (s.busXfer b).2.trace = s.trace ++ [.exchange b (s.busXfer b).1] := rfl
@[simp] theorem State.busXfer_replies (s : State) (b : Byte) : (s.busXfer b).2.replies = s.replies := rfl
@[simp] theorem State.busXfer_busIn (s : State) (b : Byte) : (s.busXfer b).2.busIn = (s.busIn.next Config.freeByte).2 := rfl
@[simp] theorem State.busXfer_stepIn (s : State) (b : Byte) : (s.busXfer b).2.stepIn = s.stepIn := rfl
@[simp] theorem State.busXfer_posIn (s : State) (b : Byte) : (s.busXfer b).2.posIn = s.posIn := rfl
@[simp] theorem State.busXfer_senseIn (s : State) (b : Byte) : (s.busXfer b).2.senseIn = s.senseIn := rfl
@[simp] theorem State.busXfer_hostPort (s : State) (b : Byte) : (s.busXfer b).2.hostPort = s.hostPort := rfl

/-! ## ampWrite -/

@[simp] theorem State.ampWrite_cfg (s : State) (i : Nat) (b : Bool) : (s.ampWrite i b).cfg = s.cfg := rfl
@[simp] theorem State.ampWrite_ctrlImage (s : State) (i : Nat) (b : Bool) : (s.ampWrite i b).ctrlImage = s.ctrlImage := rfl
@[simp] theorem State.ampWrite_ctrlWord (s : State) (i : Nat) (b : Bool) : (s.ampWrite i b).ctrlWord = s.ctrlWord := rfl
@[simp] theorem State.ampWrite_devLive (s : State) (i : Nat) (b : Bool) : (s.ampWrite i b).devLive = s.devLive := rfl
@[simp] theorem State.ampWrite_txnOpen (s : State) (i : Nat) (b : Bool) : (s.ampWrite i b).txnOpen = s.txnOpen := rfl
@[simp] theorem State.ampWrite_sel (s : State) (i : Nat) (b : Bool) : (s.ampWrite i b).sel = s.sel := rfl
@[simp] theorem State.ampWrite_modeOn (s : State) (i : Nat) (b : Bool) : (s.ampWrite i b).modeOn = s.modeOn := rfl
@[simp] theorem State.ampWrite_shiftTx (s : State) (i : Nat) (b : Bool) : (s.ampWrite i b).shiftTx = s.shiftTx := rfl
@[simp] theorem State.ampWrite_shiftRx (s : State) (i : Nat) (b : Bool) : (s.ampWrite i b).shiftRx = s.shiftRx := rfl
@[simp] theorem State.ampWrite_lifecycle (s : State) (i : Nat) (b : Bool) : (s.ampWrite i b).lifecycle = s.lifecycle := rfl
@[simp] theorem State.ampWrite_count (s : State) (i : Nat) (b : Bool) : (s.ampWrite i b).count = s.count := rfl
@[simp] theorem State.ampWrite_out (s : State) (i : Nat) (b : Bool) : (s.ampWrite i b).out = s.out := rfl
@[simp] theorem State.ampWrite_pos (s : State) (i : Nat) (b : Bool) : (s.ampWrite i b).pos = s.pos := rfl
@[simp] theorem State.ampWrite_led (s : State) (i : Nat) (b : Bool) : (s.ampWrite i b).led = s.led := rfl
@[simp] theorem State.ampWrite_amp (s : State) (i : Nat) (b : Bool) : (s.ampWrite i b).amp = s.amp.set i b := rfl
@[simp] theorem State.ampWrite_btn (s : State) (i : Nat) (b : Bool) : (s.ampWrite i b).btn = s.btn := rfl
@[simp] theorem State.ampWrite_trace (s : State) (i : Nat) (b : Bool) : (s.ampWrite i b).trace = s.trace ++ [.amp i b] := rfl
@[simp] theorem State.ampWrite_replies (s : State) (i : Nat) (b : Bool) : (s.ampWrite i b).replies = s.replies := rfl
@[simp] theorem State.ampWrite_busIn (s : State) (i : Nat) (b : Bool) : (s.ampWrite i b).busIn = s.busIn := rfl
@[simp] theorem State.ampWrite_stepIn (s : State) (i : Nat) (b : Bool) : (s.ampWrite i b).stepIn = s.stepIn := rfl
@[simp] theorem State.ampWrite_posIn (s : State) (i : Nat) (b : Bool) : (s.ampWrite i b).posIn = s.posIn := rfl
@[simp] theorem State.ampWrite_senseIn (s : State) (i : Nat) (b : Bool) : (s.ampWrite i b).senseIn = s.senseIn := rfl
@[simp] theorem State.ampWrite_hostPort (s : State) (i : Nat) (b : Bool) : (s.ampWrite i b).hostPort = s.hostPort := rfl

/-! ## ledWrite -/

@[simp] theorem State.ledWrite_cfg (s : State) (i : Nat) (b : Bool) : (s.ledWrite i b).cfg = s.cfg := rfl
@[simp] theorem State.ledWrite_ctrlImage (s : State) (i : Nat) (b : Bool) : (s.ledWrite i b).ctrlImage = s.ctrlImage := rfl
@[simp] theorem State.ledWrite_ctrlWord (s : State) (i : Nat) (b : Bool) : (s.ledWrite i b).ctrlWord = s.ctrlWord := rfl
@[simp] theorem State.ledWrite_devLive (s : State) (i : Nat) (b : Bool) : (s.ledWrite i b).devLive = s.devLive := rfl
@[simp] theorem State.ledWrite_txnOpen (s : State) (i : Nat) (b : Bool) : (s.ledWrite i b).txnOpen = s.txnOpen := rfl
@[simp] theorem State.ledWrite_sel (s : State) (i : Nat) (b : Bool) : (s.ledWrite i b).sel = s.sel := rfl
@[simp] theorem State.ledWrite_modeOn (s : State) (i : Nat) (b : Bool) : (s.ledWrite i b).modeOn = s.modeOn := rfl
@[simp] theorem State.ledWrite_shiftTx (s : State) (i : Nat) (b : Bool) : (s.ledWrite i b).shiftTx = s.shiftTx := rfl
@[simp] theorem State.ledWrite_shiftRx (s : State) (i : Nat) (b : Bool) : (s.ledWrite i b).shiftRx = s.shiftRx := rfl
@[simp] theorem State.ledWrite_lifecycle (s : State) (i : Nat) (b : Bool) : (s.ledWrite i b).lifecycle = s.lifecycle := rfl
@[simp] theorem State.ledWrite_count (s : State) (i : Nat) (b : Bool) : (s.ledWrite i b).count = s.count := rfl
@[simp] theorem State.ledWrite_out (s : State) (i : Nat) (b : Bool) : (s.ledWrite i b).out = s.out := rfl
@[simp] theorem State.ledWrite_pos (s : State) (i : Nat) (b : Bool) : (s.ledWrite i b).pos = s.pos := rfl
@[simp] theorem State.ledWrite_led (s : State) (i : Nat) (b : Bool) : (s.ledWrite i b).led = s.led.set i b := rfl
@[simp] theorem State.ledWrite_amp (s : State) (i : Nat) (b : Bool) : (s.ledWrite i b).amp = s.amp := rfl
@[simp] theorem State.ledWrite_btn (s : State) (i : Nat) (b : Bool) : (s.ledWrite i b).btn = s.btn := rfl
@[simp] theorem State.ledWrite_trace (s : State) (i : Nat) (b : Bool) : (s.ledWrite i b).trace = s.trace ++ [.led i b] := rfl
@[simp] theorem State.ledWrite_replies (s : State) (i : Nat) (b : Bool) : (s.ledWrite i b).replies = s.replies := rfl
@[simp] theorem State.ledWrite_busIn (s : State) (i : Nat) (b : Bool) : (s.ledWrite i b).busIn = s.busIn := rfl
@[simp] theorem State.ledWrite_stepIn (s : State) (i : Nat) (b : Bool) : (s.ledWrite i b).stepIn = s.stepIn := rfl
@[simp] theorem State.ledWrite_posIn (s : State) (i : Nat) (b : Bool) : (s.ledWrite i b).posIn = s.posIn := rfl
@[simp] theorem State.ledWrite_senseIn (s : State) (i : Nat) (b : Bool) : (s.ledWrite i b).senseIn = s.senseIn := rfl
@[simp] theorem State.ledWrite_hostPort (s : State) (i : Nat) (b : Bool) : (s.ledWrite i b).hostPort = s.hostPort := rfl

/-! ## senseButton -/

@[simp] theorem State.senseButton_cfg (s : State) (j : Nat) : (s.senseButton j).2.cfg = s.cfg := rfl
@[simp] theorem State.senseButton_ctrlImage (s : State) (j : Nat) : (s.senseButton j).2.ctrlImage = s.ctrlImage := rfl
@[simp] theorem State.senseButton_ctrlWord (s : State) (j : Nat) : (s.senseButton j).2.ctrlWord = s.ctrlWord := rfl
@[simp] theorem State.senseButton_devLive (s : State) (j : Nat) : (s.senseButton j).2.devLive = s.devLive := rfl
@[simp] theorem State.senseButton_txnOpen (s : State) (j : Nat) : (s.senseButton j).2.txnOpen = s.txnOpen := rfl
@[simp] theorem State.senseButton_sel (s : State) (j : Nat) : (s.senseButton j).2.sel = s.sel := rfl
@[simp] theorem State.senseButton_modeOn (s : State) (j : Nat) : (s.senseButton j).2.modeOn = s.modeOn := rfl
@[simp] theorem State.senseButton_shiftTx (s : State) (j : Nat) : (s.senseButton j).2.shiftTx = s.shiftTx := rfl
@[simp] theorem State.senseButton_shiftRx (s : State) (j : Nat) : (s.senseButton j).2.shiftRx = s.shiftRx := rfl
@[simp] theorem State.senseButton_lifecycle (s : State) (j : Nat) : (s.senseButton j).2.lifecycle = s.lifecycle := rfl
@[simp] theorem State.senseButton_count (s : State) (j : Nat) : (s.senseButton j).2.count = s.count := rfl
@[simp] theorem State.senseButton_out (s : State) (j : Nat) : (s.senseButton j).2.out = s.out := rfl
@[simp] theorem State.senseButton_pos (s : State) (j : Nat) : (s.senseButton j).2.pos = s.pos := rfl
@[simp] theorem State.senseButton_led (s : State) (j : Nat) : (s.senseButton j).2.led = s.led := rfl
@[simp] theorem State.senseButton_amp (s : State) (j : Nat) : (s.senseButton j).2.amp = s.amp := rfl
@[simp] theorem State.senseButton_btn (s : State) (j : Nat) : (s.senseButton j).2.btn = s.btn := rfl
@[simp] theorem State.senseButton_trace (s : State) (j : Nat) : (s.senseButton j).2.trace = s.trace ++ [.button j (s.senseButton j).1] := rfl
@[simp] theorem State.senseButton_replies (s : State) (j : Nat) : (s.senseButton j).2.replies = s.replies := rfl
@[simp] theorem State.senseButton_busIn (s : State) (j : Nat) : (s.senseButton j).2.busIn = s.busIn := rfl
@[simp] theorem State.senseButton_stepIn (s : State) (j : Nat) : (s.senseButton j).2.stepIn = s.stepIn := rfl
@[simp] theorem State.senseButton_posIn (s : State) (j : Nat) : (s.senseButton j).2.posIn = s.posIn := rfl
@[simp] theorem State.senseButton_senseIn (s : State) (j : Nat) : (s.senseButton j).2.senseIn = (s.senseIn.next Config.freeMagnitude).2 := rfl
@[simp] theorem State.senseButton_hostPort (s : State) (j : Nat) : (s.senseButton j).2.hostPort = s.hostPort := rfl

/-! ## modInit -/

@[simp] theorem State.modInit_cfg (s : State) (i : Nat) : (s.modInit i).cfg = s.cfg := rfl
@[simp] theorem State.modInit_ctrlImage (s : State) (i : Nat) : (s.modInit i).ctrlImage = s.ctrlImage := rfl
@[simp] theorem State.modInit_ctrlWord (s : State) (i : Nat) : (s.modInit i).ctrlWord = s.ctrlWord := rfl
@[simp] theorem State.modInit_devLive (s : State) (i : Nat) : (s.modInit i).devLive = s.devLive := rfl
@[simp] theorem State.modInit_txnOpen (s : State) (i : Nat) : (s.modInit i).txnOpen = s.txnOpen := rfl
@[simp] theorem State.modInit_sel (s : State) (i : Nat) : (s.modInit i).sel = s.sel := rfl
@[simp] theorem State.modInit_modeOn (s : State) (i : Nat) : (s.modInit i).modeOn = s.modeOn := rfl
@[simp] theorem State.modInit_shiftTx (s : State) (i : Nat) : (s.modInit i).shiftTx = s.shiftTx := rfl
@[simp] theorem State.modInit_shiftRx (s : State) (i : Nat) : (s.modInit i).shiftRx = s.shiftRx := rfl
@[simp] theorem State.modInit_lifecycle (s : State) (i : Nat) : (s.modInit i).lifecycle = s.lifecycle := rfl
@[simp] theorem State.modInit_count (s : State) (i : Nat) : (s.modInit i).count = s.count := rfl
@[simp] theorem State.modInit_out (s : State) (i : Nat) : (s.modInit i).out = s.out := rfl
@[simp] theorem State.modInit_pos (s : State) (i : Nat) : (s.modInit i).pos = s.pos := rfl
@[simp] theorem State.modInit_led (s : State) (i : Nat) : (s.modInit i).led = s.led := rfl
@[simp] theorem State.modInit_amp (s : State) (i : Nat) : (s.modInit i).amp = s.amp := rfl
@[simp] theorem State.modInit_btn (s : State) (i : Nat) : (s.modInit i).btn = s.btn := rfl
@[simp] theorem State.modInit_trace (s : State) (i : Nat) : (s.modInit i).trace = s.trace ++ [.modInit i] := rfl
@[simp] theorem State.modInit_replies (s : State) (i : Nat) : (s.modInit i).replies = s.replies := rfl
@[simp] theorem State.modInit_busIn (s : State) (i : Nat) : (s.modInit i).busIn = s.busIn := rfl
@[simp] theorem State.modInit_stepIn (s : State) (i : Nat) : (s.modInit i).stepIn = s.stepIn := rfl
@[simp] theorem State.modInit_posIn (s : State) (i : Nat) : (s.modInit i).posIn = s.posIn := rfl
@[simp] theorem State.modInit_senseIn (s : State) (i : Nat) : (s.modInit i).senseIn = s.senseIn := rfl
@[simp] theorem State.modInit_hostPort (s : State) (i : Nat) : (s.modInit i).hostPort = s.hostPort := rfl

/-! ## modStep -/

@[simp] theorem State.modStep_cfg (s : State) (i : Nat) : (s.modStep i).2.cfg = s.cfg := rfl
@[simp] theorem State.modStep_ctrlImage (s : State) (i : Nat) : (s.modStep i).2.ctrlImage = s.ctrlImage := rfl
@[simp] theorem State.modStep_ctrlWord (s : State) (i : Nat) : (s.modStep i).2.ctrlWord = s.ctrlWord := rfl
@[simp] theorem State.modStep_devLive (s : State) (i : Nat) : (s.modStep i).2.devLive = s.devLive := rfl
@[simp] theorem State.modStep_txnOpen (s : State) (i : Nat) : (s.modStep i).2.txnOpen = s.txnOpen := rfl
@[simp] theorem State.modStep_sel (s : State) (i : Nat) : (s.modStep i).2.sel = s.sel := rfl
@[simp] theorem State.modStep_modeOn (s : State) (i : Nat) : (s.modStep i).2.modeOn = s.modeOn := rfl
@[simp] theorem State.modStep_shiftTx (s : State) (i : Nat) : (s.modStep i).2.shiftTx = s.shiftTx := rfl
@[simp] theorem State.modStep_shiftRx (s : State) (i : Nat) : (s.modStep i).2.shiftRx = s.shiftRx := rfl
@[simp] theorem State.modStep_lifecycle (s : State) (i : Nat) : (s.modStep i).2.lifecycle = s.lifecycle := rfl
@[simp] theorem State.modStep_count (s : State) (i : Nat) : (s.modStep i).2.count = s.count := rfl
@[simp] theorem State.modStep_out (s : State) (i : Nat) : (s.modStep i).2.out = s.out := rfl
@[simp] theorem State.modStep_pos (s : State) (i : Nat) : (s.modStep i).2.pos = s.pos := rfl
@[simp] theorem State.modStep_led (s : State) (i : Nat) : (s.modStep i).2.led = s.led := rfl
@[simp] theorem State.modStep_amp (s : State) (i : Nat) : (s.modStep i).2.amp = s.amp := rfl
@[simp] theorem State.modStep_btn (s : State) (i : Nat) : (s.modStep i).2.btn = s.btn := rfl
@[simp] theorem State.modStep_trace (s : State) (i : Nat) : (s.modStep i).2.trace = s.trace ++ [.modStep i (s.modStep i).1] := rfl
@[simp] theorem State.modStep_replies (s : State) (i : Nat) : (s.modStep i).2.replies = s.replies := rfl
@[simp] theorem State.modStep_busIn (s : State) (i : Nat) : (s.modStep i).2.busIn = s.busIn := rfl
@[simp] theorem State.modStep_stepIn (s : State) (i : Nat) : (s.modStep i).2.stepIn = (s.stepIn.next Config.freeStep).2 := rfl
@[simp] theorem State.modStep_posIn (s : State) (i : Nat) : (s.modStep i).2.posIn = s.posIn := rfl
@[simp] theorem State.modStep_senseIn (s : State) (i : Nat) : (s.modStep i).2.senseIn = s.senseIn := rfl
@[simp] theorem State.modStep_hostPort (s : State) (i : Nat) : (s.modStep i).2.hostPort = s.hostPort := rfl

/-! ## modPos -/

@[simp] theorem State.modPos_cfg (s : State) (i : Nat) : (s.modPos i).2.cfg = s.cfg := rfl
@[simp] theorem State.modPos_ctrlImage (s : State) (i : Nat) : (s.modPos i).2.ctrlImage = s.ctrlImage := rfl
@[simp] theorem State.modPos_ctrlWord (s : State) (i : Nat) : (s.modPos i).2.ctrlWord = s.ctrlWord := rfl
@[simp] theorem State.modPos_devLive (s : State) (i : Nat) : (s.modPos i).2.devLive = s.devLive := rfl
@[simp] theorem State.modPos_txnOpen (s : State) (i : Nat) : (s.modPos i).2.txnOpen = s.txnOpen := rfl
@[simp] theorem State.modPos_sel (s : State) (i : Nat) : (s.modPos i).2.sel = s.sel := rfl
@[simp] theorem State.modPos_modeOn (s : State) (i : Nat) : (s.modPos i).2.modeOn = s.modeOn := rfl
@[simp] theorem State.modPos_shiftTx (s : State) (i : Nat) : (s.modPos i).2.shiftTx = s.shiftTx := rfl
@[simp] theorem State.modPos_shiftRx (s : State) (i : Nat) : (s.modPos i).2.shiftRx = s.shiftRx := rfl
@[simp] theorem State.modPos_lifecycle (s : State) (i : Nat) : (s.modPos i).2.lifecycle = s.lifecycle := rfl
@[simp] theorem State.modPos_count (s : State) (i : Nat) : (s.modPos i).2.count = s.count := rfl
@[simp] theorem State.modPos_out (s : State) (i : Nat) : (s.modPos i).2.out = s.out := rfl
@[simp] theorem State.modPos_pos (s : State) (i : Nat) : (s.modPos i).2.pos = s.pos := rfl
@[simp] theorem State.modPos_led (s : State) (i : Nat) : (s.modPos i).2.led = s.led := rfl
@[simp] theorem State.modPos_amp (s : State) (i : Nat) : (s.modPos i).2.amp = s.amp := rfl
@[simp] theorem State.modPos_btn (s : State) (i : Nat) : (s.modPos i).2.btn = s.btn := rfl
@[simp] theorem State.modPos_trace (s : State) (i : Nat) : (s.modPos i).2.trace = s.trace ++ [.modPos i (s.modPos i).1] := rfl
@[simp] theorem State.modPos_replies (s : State) (i : Nat) : (s.modPos i).2.replies = s.replies := rfl
@[simp] theorem State.modPos_busIn (s : State) (i : Nat) : (s.modPos i).2.busIn = s.busIn := rfl
@[simp] theorem State.modPos_stepIn (s : State) (i : Nat) : (s.modPos i).2.stepIn = s.stepIn := rfl
@[simp] theorem State.modPos_posIn (s : State) (i : Nat) : (s.modPos i).2.posIn = (s.posIn.next Config.freePosition).2 := rfl
@[simp] theorem State.modPos_senseIn (s : State) (i : Nat) : (s.modPos i).2.senseIn = s.senseIn := rfl
@[simp] theorem State.modPos_hostPort (s : State) (i : Nat) : (s.modPos i).2.hostPort = s.hostPort := rfl

/-! ## raise -/

@[simp] theorem State.raise_cfg (s : State) (e : Error) : (s.raise e).cfg = s.cfg := rfl
@[simp] theorem State.raise_ctrlImage (s : State) (e : Error) : (s.raise e).ctrlImage = s.ctrlImage := rfl
@[simp] theorem State.raise_ctrlWord (s : State) (e : Error) : (s.raise e).ctrlWord = s.ctrlWord := rfl
@[simp] theorem State.raise_devLive (s : State) (e : Error) : (s.raise e).devLive = s.devLive := rfl
@[simp] theorem State.raise_txnOpen (s : State) (e : Error) : (s.raise e).txnOpen = s.txnOpen := rfl
@[simp] theorem State.raise_sel (s : State) (e : Error) : (s.raise e).sel = s.sel := rfl
@[simp] theorem State.raise_modeOn (s : State) (e : Error) : (s.raise e).modeOn = s.modeOn := rfl
@[simp] theorem State.raise_shiftTx (s : State) (e : Error) : (s.raise e).shiftTx = s.shiftTx := rfl
@[simp] theorem State.raise_shiftRx (s : State) (e : Error) : (s.raise e).shiftRx = s.shiftRx := rfl
@[simp] theorem State.raise_lifecycle (s : State) (e : Error) : (s.raise e).lifecycle = s.lifecycle := rfl
@[simp] theorem State.raise_count (s : State) (e : Error) : (s.raise e).count = s.count := rfl
@[simp] theorem State.raise_out (s : State) (e : Error) : (s.raise e).out = s.out := rfl
@[simp] theorem State.raise_pos (s : State) (e : Error) : (s.raise e).pos = s.pos := rfl
@[simp] theorem State.raise_led (s : State) (e : Error) : (s.raise e).led = s.led := rfl
@[simp] theorem State.raise_amp (s : State) (e : Error) : (s.raise e).amp = s.amp := rfl
@[simp] theorem State.raise_btn (s : State) (e : Error) : (s.raise e).btn = s.btn := rfl
@[simp] theorem State.raise_trace (s : State) (e : Error) : (s.raise e).trace = s.trace := rfl
@[simp] theorem State.raise_replies (s : State) (e : Error) : (s.raise e).replies = s.replies ++ [.error e] := rfl
@[simp] theorem State.raise_busIn (s : State) (e : Error) : (s.raise e).busIn = s.busIn := rfl
@[simp] theorem State.raise_stepIn (s : State) (e : Error) : (s.raise e).stepIn = s.stepIn := rfl
@[simp] theorem State.raise_posIn (s : State) (e : Error) : (s.raise e).posIn = s.posIn := rfl
@[simp] theorem State.raise_senseIn (s : State) (e : Error) : (s.raise e).senseIn = s.senseIn := rfl
@[simp] theorem State.raise_hostPort (s : State) (e : Error) : (s.raise e).hostPort = s.hostPort := rfl

/-! ## answer -/

@[simp] theorem State.answer_cfg (s : State) (v : Value) : (s.answer v).cfg = s.cfg := rfl
@[simp] theorem State.answer_ctrlImage (s : State) (v : Value) : (s.answer v).ctrlImage = s.ctrlImage := rfl
@[simp] theorem State.answer_ctrlWord (s : State) (v : Value) : (s.answer v).ctrlWord = s.ctrlWord := rfl
@[simp] theorem State.answer_devLive (s : State) (v : Value) : (s.answer v).devLive = s.devLive := rfl
@[simp] theorem State.answer_txnOpen (s : State) (v : Value) : (s.answer v).txnOpen = s.txnOpen := rfl
@[simp] theorem State.answer_sel (s : State) (v : Value) : (s.answer v).sel = s.sel := rfl
@[simp] theorem State.answer_modeOn (s : State) (v : Value) : (s.answer v).modeOn = s.modeOn := rfl
@[simp] theorem State.answer_shiftTx (s : State) (v : Value) : (s.answer v).shiftTx = s.shiftTx := rfl
@[simp] theorem State.answer_shiftRx (s : State) (v : Value) : (s.answer v).shiftRx = s.shiftRx := rfl
@[simp] theorem State.answer_lifecycle (s : State) (v : Value) : (s.answer v).lifecycle = s.lifecycle := rfl
@[simp] theorem State.answer_count (s : State) (v : Value) : (s.answer v).count = s.count := rfl
@[simp] theorem State.answer_out (s : State) (v : Value) : (s.answer v).out = s.out := rfl
@[simp] theorem State.answer_pos (s : State) (v : Value) : (s.answer v).pos = s.pos := rfl
@[simp] theorem State.answer_led (s : State) (v : Value) : (s.answer v).led = s.led := rfl
@[simp] theorem State.answer_amp (s : State) (v : Value) : (s.answer v).amp = s.amp := rfl
@[simp] theorem State.answer_btn (s : State) (v : Value) : (s.answer v).btn = s.btn := rfl
@[simp] theorem State.answer_trace (s : State) (v : Value) : (s.answer v).trace = s.trace := rfl
@[simp] theorem State.answer_replies (s : State) (v : Value) : (s.answer v).replies = s.replies ++ [.ok v] := rfl
@[simp] theorem State.answer_busIn (s : State) (v : Value) : (s.answer v).busIn = s.busIn := rfl
@[simp] theorem State.answer_stepIn (s : State) (v : Value) : (s.answer v).stepIn = s.stepIn := rfl
@[simp] theorem State.answer_posIn (s : State) (v : Value) : (s.answer v).posIn = s.posIn := rfl
@[simp] theorem State.answer_senseIn (s : State) (v : Value) : (s.answer v).senseIn = s.senseIn := rfl
@[simp] theorem State.answer_hostPort (s : State) (v : Value) : (s.answer v).hostPort = s.hostPort := rfl

/-! ## withCall -/

@[simp] theorem State.withCall_cfg (s : State) (bs : List Byte) : (s.withCall bs).cfg = s.cfg := rfl
@[simp] theorem State.withCall_ctrlImage (s : State) (bs : List Byte) : (s.withCall bs).ctrlImage = s.ctrlImage := rfl
@[simp] theorem State.withCall_ctrlWord (s : State) (bs : List Byte) : (s.withCall bs).ctrlWord = s.ctrlWord := rfl
@[simp] theorem State.withCall_devLive (s : State) (bs : List Byte) : (s.withCall bs).devLive = s.devLive := rfl
@[simp] theorem State.withCall_txnOpen (s : State) (bs : List Byte) : (s.withCall bs).txnOpen = s.txnOpen := rfl
@[simp] theorem State.withCall_sel (s : State) (bs : List Byte) : (s.withCall bs).sel = s.sel := rfl
@[simp] theorem State.withCall_modeOn (s : State) (bs : List Byte) : (s.withCall bs).modeOn = s.modeOn := rfl
@[simp] theorem State.withCall_shiftTx (s : State) (bs : List Byte) : (s.withCall bs).shiftTx = s.shiftTx := rfl
@[simp] theorem State.withCall_shiftRx (s : State) (bs : List Byte) : (s.withCall bs).shiftRx = s.shiftRx := rfl
@[simp] theorem State.withCall_lifecycle (s : State) (bs : List Byte) : (s.withCall bs).lifecycle = s.lifecycle := rfl
@[simp] theorem State.withCall_count (s : State) (bs : List Byte) : (s.withCall bs).count = s.count := rfl
@[simp] theorem State.withCall_out (s : State) (bs : List Byte) : (s.withCall bs).out = s.out := rfl
@[simp] theorem State.withCall_pos (s : State) (bs : List Byte) : (s.withCall bs).pos = s.pos := rfl
@[simp] theorem State.withCall_led (s : State) (bs : List Byte) : (s.withCall bs).led = s.led := rfl
@[simp] theorem State.withCall_amp (s : State) (bs : List Byte) : (s.withCall bs).amp = s.amp := rfl
@[simp] theorem State.withCall_btn (s : State) (bs : List Byte) : (s.withCall bs).btn = s.btn := rfl
@[simp] theorem State.withCall_trace (s : State) (bs : List Byte) : (s.withCall bs).trace = s.trace := rfl
@[simp] theorem State.withCall_replies (s : State) (bs : List Byte) : (s.withCall bs).replies = s.replies := rfl
@[simp] theorem State.withCall_busIn (s : State) (bs : List Byte) : (s.withCall bs).busIn = s.busIn := rfl
@[simp] theorem State.withCall_stepIn (s : State) (bs : List Byte) : (s.withCall bs).stepIn = s.stepIn := rfl
@[simp] theorem State.withCall_posIn (s : State) (bs : List Byte) : (s.withCall bs).posIn = s.posIn := rfl
@[simp] theorem State.withCall_senseIn (s : State) (bs : List Byte) : (s.withCall bs).senseIn = s.senseIn := rfl
@[simp] theorem State.withCall_hostPort (s : State) (bs : List Byte) : (s.withCall bs).hostPort = bs ++ s.hostPort := rfl

end Sys2Proof.Machine
end

