-- ==== Sys2Proof/Laws/Ops.lean ====
section
/-! SUPPORT. Everything each shared operation can do, once: an equation for the state it answers, with the free answers
named. The provers cite these and unfold no operation. -/

namespace Sys2Proof.Machine

/-! ## Erasing received bytes -/

@[simp] theorem Event.sent_exchange (b r : Byte) : (Event.exchange b r).sent = .exchange b 0 := rfl

@[simp] theorem Event.sent_sent (e : Event) : e.sent.sent = e.sent := by cases e <;> rfl

/-! ## One exchange, one packet -/

/-- One exchange: a free byte `r`, one event, the registers moved by a byte. -/
theorem busXfer_spec (b : Byte) (s : State) :
    ∃ r bus, s.busXfer b = (r,
      { s with
        busIn := bus
        shiftTx := s.shiftTx <<< 8
        shiftRx := (s.shiftRx <<< 8) ||| r.setWidth 24
        trace := s.trace ++ [.exchange b r] }) :=
  ⟨_, _, rfl⟩

/-- Three exchanges fill the receive register: nothing of what it held is left (10_state.md R17). -/
theorem shiftRx_fills (x : BitVec 24) (r0 r1 r2 : Byte) :
    (((((x <<< 8) ||| r0.setWidth 24) <<< 8) ||| r1.setWidth 24) <<< 8) ||| r2.setWidth 24 = fromBytes r0 r1 r2 := by
  simp only [fromBytes]
  ext i hi
  simp only [BitVec.getElem_or, BitVec.getElem_shiftLeft, BitVec.getElem_setWidth]
  interval_cases i <;> simp

/-- Three exchanges empty the transmit register. -/
theorem shiftTx_empties (x : BitVec 24) : ((x <<< 8) <<< 8) <<< 8 = 0 := by
  ext i hi
  simp only [BitVec.getElem_shiftLeft]
  interval_cases i <;> simp

/-- One packet: three free bytes, three events, the echo assembled from the bytes received. -/
theorem sendPacket_spec (w : Packet) (s : State) :
    ∃ r0 r1 r2 bus, s.sendPacket w = (fromBytes r0 r1 r2,
      { s with
        busIn := bus
        shiftTx := 0
        shiftRx := fromBytes r0 r1 r2
        trace := s.trace ++
          [.exchange (toBytes w).1 r0, .exchange (toBytes w).2.1 r1, .exchange (toBytes w).2.2 r2] }) := by
  obtain ⟨r0, bus0, h0⟩ := busXfer_spec (toBytes w).1 (s.loadTx w)
  obtain ⟨r1, bus1, h1⟩ := busXfer_spec (toBytes w).2.1 ((s.loadTx w).busXfer (toBytes w).1).2
  obtain ⟨r2, bus2, h2⟩ :=
    busXfer_spec (toBytes w).2.2 (((s.loadTx w).busXfer (toBytes w).1).2.busXfer (toBytes w).2.1).2
  refine ⟨r0, r1, r2, bus2, ?_⟩
  simp only [State.sendPacket]
  rw [h2, h1, h0]
  simp [State.loadTx, shiftRx_fills]

/-- `transfer` outside a transaction raises, and nothing else happens (41_serializer.md R69). -/
theorem transferPacket_closed {s : State} (h : s.txnOpen = false) (w : Packet) :
    transferPacket w s = .raised .preconditionViolation s := by
  simp [transferPacket, h]

/-- `transfer` inside a transaction cannot fail (R71). -/
theorem transferPacket_open {s : State} (h : s.txnOpen = true) (w : Packet) :
    ∃ r0 r1 r2 bus, transferPacket w s = .ok (fromBytes r0 r1 r2)
      { s with
        busIn := bus
        shiftTx := 0
        shiftRx := fromBytes r0 r1 r2
        trace := s.trace ++
          [.exchange (toBytes w).1 r0, .exchange (toBytes w).2.1 r1, .exchange (toBytes w).2.2 r2] } := by
  obtain ⟨r0, r1, r2, bus, hp⟩ := sendPacket_spec w s
  exact ⟨r0, r1, r2, bus, by simp [transferPacket, h, hp]⟩

/-- A wrapper outside a transaction raises. -/
theorem sendOnly_closed {s : State} (h : s.txnOpen = false) (w : Packet) :
    sendOnly w s = .raised .preconditionViolation s := by
  simp [sendOnly, transferPacket_closed h, Run.andThen]

/-- A wrapper inside a transaction sends its packet. -/
theorem sendOnly_open {s : State} (h : s.txnOpen = true) (w : Packet) :
    ∃ r0 r1 r2 bus, sendOnly w s = .ok ()
      { s with
        busIn := bus
        shiftTx := 0
        shiftRx := fromBytes r0 r1 r2
        trace := s.trace ++
          [.exchange (toBytes w).1 r0, .exchange (toBytes w).2.1 r1, .exchange (toBytes w).2.2 r2] } := by
  obtain ⟨r0, r1, r2, bus, hp⟩ := transferPacket_open h w
  exact ⟨r0, r1, r2, bus, by simp [sendOnly, hp, Run.andThen]⟩

/-! ## Opening and closing -/

/-- `open` in a transaction raises (R67). -/
theorem openBus_open {s : State} (h : s.txnOpen = true) : openBus s = .raised .preconditionViolation s := by
  simp [openBus, h]

/-- `open` outside a transaction: apply-mode, dummy exchange, assert-select (R67). -/
theorem openBus_closed {s : State} (h : s.txnOpen = false) :
    ∃ r bus tx rx, openBus s = .ok ()
      { s with
        txnOpen := true
        sel := true
        modeOn := true
        busIn := bus
        shiftTx := tx
        shiftRx := rx
        trace := s.trace ++ [.modeApplied, .exchange s.cfg.dummyByte r, .selectAsserted] } := by
  refine ⟨(s.busIn.next Config.freeByte).1, (s.busIn.next Config.freeByte).2,
    (s.cfg.dummyByte.setWidth 24 <<< 16) <<< 8,
    (s.shiftRx <<< 8) ||| (s.busIn.next Config.freeByte).1.setWidth 24, ?_⟩
  simp [openBus, h, State.enterTransaction, State.busXfer, State.loadTx, State.busMode, State.select, State.emit]

/-- `close` outside a transaction raises (R68). -/
theorem closeBus_closed {s : State} (h : s.txnOpen = false) : closeBus s = .raised .preconditionViolation s := by
  simp [closeBus, h]

/-- `close` in a transaction: deassert select, release the mode (R68). -/
theorem closeBus_open {s : State} (h : s.txnOpen = true) :
    closeBus s = .ok ()
      { s with
        txnOpen := false
        sel := false
        modeOn := false
        trace := s.trace ++ [.selectDeasserted, .modeReleased] } := by
  simp [closeBus, h, State.leaveTransaction, State.busMode, State.select, State.emit]

/-! ## Transactions -/

/-- Packets inside a transaction: the events are those of the packets, received bytes aside, and nothing but the bus
peer's source and the shift registers changes besides. -/
theorem sendAll_open (ws : List Packet) {s : State} (h : s.txnOpen = true) :
    ∃ evs bus tx rx, sendAll ws s = .ok ()
      { s with
        busIn := bus
        shiftTx := tx
        shiftRx := rx
        trace := s.trace ++ evs } ∧ evs.map Event.sent = ws.flatMap packetShape := by
  induction ws generalizing s with
  | nil => exact ⟨[], s.busIn, s.shiftTx, s.shiftRx, by simp [sendAll], rfl⟩
  | cons w ws ih =>
    obtain ⟨r0, r1, r2, bus, hw⟩ := sendOnly_open h w
    obtain ⟨evs, bus', tx, rx, hws, hevs⟩ := ih (s := { s with
      busIn := bus
      shiftTx := 0
      shiftRx := fromBytes r0 r1 r2
      trace := s.trace ++
        [.exchange (toBytes w).1 r0, .exchange (toBytes w).2.1 r1, .exchange (toBytes w).2.2 r2] }) h
    refine ⟨[.exchange (toBytes w).1 r0, .exchange (toBytes w).2.1 r1, .exchange (toBytes w).2.2 r2] ++ evs,
      bus', tx, rx, ?_, ?_⟩
    · simp only [sendAll, hw, Run.andThen, hws]
      simp
    · simp [hevs, packetShape]

/-- A transaction that finds one open raises at its `open`, and nothing else happens (60_exceptions.md R107). -/
theorem transaction_open {s : State} (h : s.txnOpen = true) (ws : List Packet) :
    transaction ws s = .raised .preconditionViolation s := by
  simp [transaction, openBus_open h, Run.andThen]

/-- A transaction that finds none open succeeds and leaves none open (41_serializer.md R71, R72). -/
theorem transaction_closed {s : State} (h : s.txnOpen = false) (ws : List Packet) :
    ∃ evs bus tx rx, transaction ws s = .ok ()
      { s with
        sel := false
        modeOn := false
        busIn := bus
        shiftTx := tx
        shiftRx := rx
        trace := s.trace ++ evs } ∧ evs.map Event.sent = transactionShape s.cfg ws := by
  obtain ⟨r, bus, tx, rx, ho⟩ := openBus_closed h
  obtain ⟨evs, bus', tx', rx', hs, hevs⟩ := sendAll_open ws (s := { s with
    txnOpen := true
    sel := true
    modeOn := true
    busIn := bus
    shiftTx := tx
    shiftRx := rx
    trace := s.trace ++ [.modeApplied, .exchange s.cfg.dummyByte r, .selectAsserted] }) rfl
  refine ⟨[.modeApplied, .exchange s.cfg.dummyByte r, .selectAsserted] ++ evs
    ++ [.selectDeasserted, .modeReleased], bus', tx', rx', ?_, ?_⟩
  · simp only [transaction, ho, Run.andThen, hs]
    rw [closeBus_open rfl]
    simp [h]
  · simp [hevs, transactionShape, openShape, closeShape, Event.sent]

/-- The body of device teardown never raises: it closes an open transaction, sends the software reset in a fresh one,
and the device is gone (42_device_commands.md R81). -/
theorem teardownDevice_spec (s : State) :
    ∃ evs bus tx rx, teardownDevice s = .ok ()
      { s with
        devLive := false
        txnOpen := false
        sel := false
        modeOn := false
        busIn := bus
        shiftTx := tx
        shiftRx := rx
        trace := s.trace ++ evs } ∧
      evs.map Event.sent =
        (if s.txnOpen then closeShape else []) ++ transactionShape s.cfg [resetWord s.cfg] := by
  cases h : s.txnOpen with
  | false =>
    obtain ⟨evs, bus, tx, rx, ht, hevs⟩ := transaction_closed h [resetWord s.cfg]
    exact ⟨evs, bus, tx, rx, by simp [teardownDevice, h, Run.andThen, ht], by simp [hevs]⟩
  | true =>
    obtain ⟨evs, bus, tx, rx, ht, hevs⟩ := transaction_closed (s := { s with
      txnOpen := false
      sel := false
      modeOn := false
      trace := s.trace ++ [.selectDeasserted, .modeReleased] }) rfl [resetWord s.cfg]
    refine ⟨[.selectDeasserted, .modeReleased] ++ evs, bus, tx, rx, ?_, ?_⟩
    · simp [teardownDevice, h, closeBus_open h, Run.andThen, ht]
    · simp [hevs, closeShape, Event.sent]

/-! ## Loops over positions -/

/-- Writing amp lines: one event for each position, in ascending order. -/
theorem writeAmps_spec (n : Nat) (b : Bool) (s : State) :
    s.writeAmps n b = { s with
      amp := (List.range n).foldl (fun a i => a.set i b) s.amp
      trace := s.trace ++ (List.range n).map fun i => .amp i b } := by
  induction n with
  | zero => simp [State.writeAmps]
  | succ n ih =>
    rw [State.writeAmps] at ih
    rw [State.writeAmps, List.range_succ, List.foldl_append, ih]
    simp [State.ampWrite, State.emit]

/-- Writing LED lines: the same. -/
theorem writeLeds_spec (n : Nat) (b : Bool) (s : State) :
    s.writeLeds n b = { s with
      led := (List.range n).foldl (fun a i => a.set i b) s.led
      trace := s.trace ++ (List.range n).map fun i => .led i b } := by
  induction n with
  | zero => simp [State.writeLeds]
  | succ n ih =>
    rw [State.writeLeds] at ih
    rw [State.writeLeds, List.range_succ, List.foldl_append, ih]
    simp [State.ledWrite, State.emit]

/-- Initialising modules: one event for each position, and nothing else. -/
theorem initModules_spec (n : Nat) (s : State) :
    s.initModules n = { s with trace := s.trace ++ (List.range n).map fun i => .modInit i } := by
  induction n with
  | zero => simp [State.initModules]
  | succ n ih =>
    rw [State.initModules] at ih
    rw [State.initModules, List.range_succ, List.foldl_append, ih]
    simp [State.modInit, State.emit]

/-- Setting the entry right after a prefix. -/
theorem set_at_append {α : Type} {n : Nat} {l : List α} {a x : α} {r : List α} (h : l.length = n) :
    (l ++ a :: r).set n x = l ++ x :: r := by
  subst h
  simp

/-- Setting the first `n` entries of a list that has them. -/
theorem foldl_set_range {α : Type} (b : α) (n : Nat) (l : List α) (h : n ≤ l.length) :
    (List.range n).foldl (fun a i => a.set i b) l = List.replicate n b ++ l.drop n := by
  induction n with
  | zero => simp
  | succ n ih =>
    rw [List.range_succ, List.foldl_append, ih (by omega)]
    have hd : l.drop n = l[n] :: l.drop (n + 1) := (List.drop_eq_getElem_cons (by omega))
    rw [hd, List.foldl_cons, List.foldl_nil, set_at_append (by simp), List.replicate_succ', List.append_assoc]
    rfl

/-- The length is kept by setting entries, whatever the entries. -/
@[simp] theorem foldl_set_length {α : Type} (b : α) (is : List Nat) (l : List α) :
    (is.foldl (fun a i => a.set i b) l).length = l.length := by
  induction is generalizing l with
  | nil => rfl
  | cons i is ih => simp [ih]

/-- Writing the amp lines of all positions: every entry takes the value. -/
theorem writeAmps_all {n : Nat} {s : State} (h : s.amp.length = n) (b : Bool) :
    s.writeAmps n b = { s with
      amp := List.replicate n b
      trace := s.trace ++ (List.range n).map fun i => .amp i b } := by
  rw [writeAmps_spec, foldl_set_range _ _ _ (le_of_eq h.symm), List.drop_of_length_le (le_of_eq h), List.append_nil]

/-- Module events end to end. -/
theorem moduleEvents_snoc (answers : List (Value16 × Position32)) (i : Nat) (v : Value16) (p : Position32) :
    moduleEvents i (answers ++ [(v, p)])
      = moduleEvents i answers ++ [.modStep (i + answers.length) v, .modPos (i + answers.length) p] := by
  induction answers generalizing i with
  | nil => simp [moduleEvents]
  | cons a rest ih =>
    simp only [List.cons_append, moduleEvents, ih, List.length_cons]
    rw [show i + 1 + rest.length = i + (rest.length + 1) by omega]

/-- The module loop: `n` free values and positions, cached at positions 0 to `n`-1, entries from `n` on kept
(43_orchestrator.md R90). -/
theorem stepModules_spec (n : Nat) (s : State) (ho : n ≤ s.out.length) (hp : n ≤ s.pos.length) :
    ∃ (answers : List (Value16 × Position32)) (stepDraws : Draws Value16) (posDraws : Draws Position32),
      answers.length = n ∧
      s.stepModules n = { s with
        stepIn := stepDraws
        posIn := posDraws
        out := answers.map Prod.fst ++ s.out.drop n
        pos := answers.map Prod.snd ++ s.pos.drop n
        trace := s.trace ++ moduleEvents 0 answers } := by
  induction n with
  | zero => exact ⟨[], s.stepIn, s.posIn, rfl, by simp [State.stepModules, moduleEvents]⟩
  | succ n ih =>
    obtain ⟨answers, sd, pd, hl, hs⟩ := ih (by omega) (by omega)
    have hso : s.out.drop n = s.out[n] :: s.out.drop (n + 1) := (List.drop_eq_getElem_cons (by omega))
    have hsp : s.pos.drop n = s.pos[n] :: s.pos.drop (n + 1) := (List.drop_eq_getElem_cons (by omega))
    refine ⟨answers ++ [((sd.next Config.freeStep).1, (pd.next Config.freePosition).1)],
      (sd.next Config.freeStep).2, (pd.next Config.freePosition).2, by simp [hl], ?_⟩
    simp only [State.stepModules] at hs
    rw [State.stepModules, List.range_succ, List.foldl_append, hs, hso, hsp]
    simp only [List.foldl_cons, List.foldl_nil, State.stepModule, State.modStep, State.modPos, State.emit]
    rw [set_at_append (by simp [hl]), set_at_append (by simp [hl])]
    simp [moduleEvents_snoc, hl]

/-- The module loop over all entries: nothing of the old values is left. -/
theorem stepModules_all {n : Nat} {s : State} (ho : s.out.length = n) (hp : s.pos.length = n) :
    ∃ (answers : List (Value16 × Position32)) (stepDraws : Draws Value16) (posDraws : Draws Position32),
      answers.length = n ∧
      s.stepModules n = { s with
        stepIn := stepDraws
        posIn := posDraws
        out := answers.map Prod.fst
        pos := answers.map Prod.snd
        trace := s.trace ++ moduleEvents 0 answers } := by
  obtain ⟨answers, sd, pd, hl, hs⟩ := stepModules_spec n s (le_of_eq ho.symm) (le_of_eq hp.symm)
  refine ⟨answers, sd, pd, hl, ?_⟩
  rw [hs, List.drop_of_length_le (le_of_eq ho), List.drop_of_length_le (le_of_eq hp), List.append_nil,
    List.append_nil]

/-- The button loop: a free magnitude for each button, latched against its threshold (44_board_io.md R99). -/
theorem pollButtons_spec (thresholds : List Nat) (j : Nat) (s : State)
    (h : j + thresholds.length ≤ s.btn.length) :
    ∃ (ms : List Nat) (sense : Draws Nat), ms.length = thresholds.length ∧
      s.pollButtons j thresholds = (ms, { s with
        senseIn := sense
        btn := s.btn.take j ++ List.zipWith (fun m t => decide (m > t)) ms thresholds
          ++ s.btn.drop (j + thresholds.length)
        trace := s.trace ++ buttonEvents j ms }) := by
  induction thresholds generalizing j s with
  | nil => exact ⟨[], s.senseIn, rfl, by simp [State.pollButtons, buttonEvents]⟩
  | cons t rest ih =>
    simp only [List.length_cons] at h
    obtain ⟨ms, sense, hl, hs⟩ := ih (j + 1)
      { (s.senseButton j).2 with btn := s.btn.set j (decide ((s.senseButton j).1 > t)) } (by simp; omega)
    refine ⟨(s.senseButton j).1 :: ms, sense, by simp [hl], ?_⟩
    simp only [State.pollButtons]
    rw [show (s.senseButton j).2.btn = s.btn from rfl, hs]
    have htake : (s.btn.set j (decide ((s.senseButton j).1 > t))).take (j + 1)
        = s.btn.take j ++ [decide ((s.senseButton j).1 > t)] := by
      rw [List.take_set, List.take_succ_eq_append_getElem (by omega), List.set_append]
      simp [Nat.min_eq_left (show j ≤ s.btn.length by omega)]
    have hdrop : (s.btn.set j (decide ((s.senseButton j).1 > t))).drop (j + 1 + rest.length)
        = s.btn.drop (j + (rest.length + 1)) := by
      rw [List.drop_set_of_lt (by omega), show j + 1 + rest.length = j + (rest.length + 1) by omega]
    simp only [htake, hdrop]
    simp [State.senseButton, State.emit, buttonEvents]

end Sys2Proof.Machine
end

