-- ==== Sys2Proof/Laws/Registry.lean ====
section
/-! SUPPORT. Admission, operand typing, and the phases of `initialize`: one lemma for each outcome. -/

namespace Sys2Proof.Machine

/-! ## Admission (43_orchestrator.md R85) -/

theorem needDevice_live {s : State} (h : s.devLive = true) (run : Host.Outcome State Fault Refusal) :
    needDevice s run = run := by
  simp [needDevice, h]

theorem needDevice_gone {s : State} (h : s.devLive = false) (run : Host.Outcome State Fault Refusal) :
    needDevice s run = .refused .deviceGone := by
  simp [needDevice, h]

theorem needLifecycle_in {ls : List Lifecycle} {s : State} (h : s.lifecycle ∈ ls)
    (run : Host.Outcome State Fault Refusal) : needLifecycle ls s run = run := by
  simp [needLifecycle, h]

theorem needLifecycle_out {ls : List Lifecycle} {s : State} (h : s.lifecycle ∉ ls)
    (run : Host.Outcome State Fault Refusal) : needLifecycle ls s run = .refused .lifecycleNotAdmitted := by
  simp [needLifecycle, h]

/-- A next state came through the device check only if the device is live. -/
theorem needDevice_next {s t : State} {run : Host.Outcome State Fault Refusal} (h : needDevice s run = .next t) :
    s.devLive = true ∧ run = .next t := by
  cases hd : s.devLive with
  | true => exact ⟨rfl, by rwa [needDevice_live hd] at h⟩
  | false => rw [needDevice_gone hd] at h; cases h

/-- A next state came through the lifecycle check only if the lifecycle is admitted. -/
theorem needLifecycle_next {ls : List Lifecycle} {s t : State} {run : Host.Outcome State Fault Refusal}
    (h : needLifecycle ls s run = .next t) : s.lifecycle ∈ ls ∧ run = .next t := by
  by_cases hl : s.lifecycle ∈ ls
  · exact ⟨hl, by rwa [needLifecycle_in hl] at h⟩
  · rw [needLifecycle_out hl] at h; cases h

theorem mem_admitsRegister {l : Lifecycle} : l ∈ admitsRegister ↔ l = .uninitialized ∨ l = .initializing := by
  cases l <;> decide

theorem mem_admitsInitialize {l : Lifecycle} : l ∈ admitsInitialize ↔ l = .uninitialized := by
  cases l <;> decide

theorem mem_admitsReady {l : Lifecycle} : l ∈ admitsReady ↔ l = .ready := by
  cases l <;> decide

theorem mem_admitsBeforeShutdown {l : Lifecycle} : l ∈ admitsBeforeShutdown ↔ l ≠ .shutdown := by
  cases l <;> decide

/-! ## Operands -/

theorem fieldsTyped_iff (f : CtrlFields) (s : State) : fieldsTyped f s = true ↔ f.Fits s.cfg.layout :=
  decide_eq_true_iff

theorem roleTyped_iff (role : Nat) (s : State) : roleTyped role s = true ↔ role < s.cfg.nbtn :=
  decide_eq_true_iff

/-! ## The phases of `initialize` (R88) -/

/-- Phases 1 to 4. -/
theorem bringUp_spec (s : State) :
    bringUp s = { s with
      lifecycle := .initializing
      trace := s.trace ++ ([.gpioUp, .clockUp, .busUp] ++ (List.range s.count).map Event.modInit) } := by
  simp [bringUp, initModules_spec, State.gpioUp, State.clockUp, State.busUp, State.emit]

/-- Phases 5 to 7 with a transaction left open: the first `open` raises. -/
theorem bringUpDac_open {s : State} (h : s.txnOpen = true) :
    bringUpDac s = .raised .preconditionViolation s := by
  simp [bringUpDac, transaction_open h, Run.andThen]

/-- Phases 5 to 7 with none open: three transactions. -/
theorem bringUpDac_closed {s : State} (h : s.txnOpen = false) :
    ∃ evs bus tx rx, bringUpDac s = .ok ()
      { s with
        sel := false
        modeOn := false
        busIn := bus
        shiftTx := tx
        shiftRx := rx
        trace := s.trace ++ evs } ∧ evs.map Event.sent = bringUpShape s := by
  obtain ⟨e1, b1, t1, x1, h1, g1⟩ :=
    transaction_closed h (List.replicate (s.cfg.initFanout.packets s.count) (resetWord s.cfg))
  obtain ⟨e2, b2, t2, x2, h2, g2⟩ :=
    transaction_closed (s := { s with
      sel := false
      modeOn := false
      busIn := b1
      shiftTx := t1
      shiftRx := x1
      trace := s.trace ++ e1 }) h (List.replicate (s.cfg.initFanout.packets s.count) s.ctrlWord)
  obtain ⟨e3, b3, t3, x3, h3, g3⟩ :=
    transaction_closed (s := { s with
      sel := false
      modeOn := false
      busIn := b2
      shiftTx := t2
      shiftRx := x2
      trace := s.trace ++ e1 ++ e2 }) h
      (List.replicate (s.cfg.initFanout.packets s.count) (encodeSetOutput s.cfg 0))
  refine ⟨e1 ++ e2 ++ e3, b3, t3, x3, ?_, by simp [g1, g2, g3, bringUpShape]⟩
  dsimp only at h2 h3
  simp only [bringUpDac, h1, h2, Run.andThen]
  rw [h3]
  simp only [List.append_assoc]

/-- Phase 8. -/
theorem enableBoard_spec {s : State} (ha : s.count ≤ s.amp.length) (hl : s.led.length = s.count) :
    enableBoard s = { s with
      lifecycle := .ready
      amp := List.replicate s.count true ++ s.amp.drop s.count
      led := List.replicate s.count true
      trace := s.trace ++ ((List.range s.count).map (fun i => Event.amp i true) ++
        (List.range s.count).map fun i => Event.led i true) } := by
  have hled : (List.range s.count).foldl (fun a i => a.set i true) s.led = List.replicate s.count true := by
    rw [foldl_set_range _ _ _ (le_of_eq hl.symm), List.drop_of_length_le (le_of_eq hl), List.append_nil]
  simp only [enableBoard, writeAmps_spec, writeLeds_spec, foldl_set_range _ _ _ ha, hled, List.append_assoc]

end Sys2Proof.Machine
end

