-- ==== Sys2Proof/Laws/Exec.lean ====
section
/-! SUPPORT. What each instruction can do, once: if `exec` answers a next state, it is one of those named here. Rules
over all instructions are proved from `exec_inv` by cases on the instruction, without unfolding a meaning. -/

namespace Sys2Proof.Machine

/-! ## Loops without a premise on lengths -/

/-- The module loop changes only the cached values, the positions, their sources and the trace, and keeps the number of
entries. -/
theorem stepModules_frame (n : Nat) (s : State) :
    ∃ out pos stepIn posIn evs, s.stepModules n = { s with
      out := out
      pos := pos
      stepIn := stepIn
      posIn := posIn
      trace := s.trace ++ evs } ∧
    out.length = s.out.length ∧ pos.length = s.pos.length ∧ ∀ e ∈ evs, ∃ i, (∃ v, e = .modStep i v) ∨ ∃ p, e = .modPos i p := by
  induction n with
  | zero => exact ⟨s.out, s.pos, s.stepIn, s.posIn, [], by simp [State.stepModules]⟩
  | succ n ih =>
    obtain ⟨out, pos, si, pi, evs, hs, ho, hp, he⟩ := ih
    rw [State.stepModules] at hs
    refine ⟨out.set n (si.next Config.freeStep).1, pos.set n (pi.next Config.freePosition).1,
      (si.next Config.freeStep).2, (pi.next Config.freePosition).2,
      evs ++ [.modStep n (si.next Config.freeStep).1, .modPos n (pi.next Config.freePosition).1], ?_, ?_⟩
    · rw [State.stepModules, List.range_succ, List.foldl_append, hs]
      simp [State.stepModule, State.modStep, State.modPos, State.emit]
    · refine ⟨by simp [ho], by simp [hp], fun e h => ?_⟩
      simp only [List.mem_append, List.mem_cons, List.not_mem_nil, or_false] at h
      rcases h with h | h | h
      · exact he e h
      · exact ⟨n, .inl ⟨_, h⟩⟩
      · exact ⟨n, .inr ⟨_, h⟩⟩

/-- The button loop changes only the latches, their source and the trace, and keeps the number of latches. -/
theorem pollButtons_frame (thresholds : List Nat) (j : Nat) (s : State) :
    ∃ ms btn senseIn, s.pollButtons j thresholds = (ms, { s with
      btn := btn
      senseIn := senseIn
      trace := s.trace ++ buttonEvents j ms }) ∧ btn.length = s.btn.length := by
  induction thresholds generalizing j s with
  | nil => exact ⟨[], s.btn, s.senseIn, by simp [State.pollButtons, buttonEvents]⟩
  | cons t rest ih =>
    obtain ⟨ms, btn, si, hs, hb⟩ := ih (j + 1)
      { (s.senseButton j).2 with btn := s.btn.set j (decide ((s.senseButton j).1 > t)) }
    refine ⟨(s.senseButton j).1 :: ms, btn, si, ?_, by simpa using hb⟩
    simp only [State.pollButtons]
    rw [show (s.senseButton j).2.btn = s.btn from rfl, hs]
    simp [State.senseButton, State.emit, buttonEvents]

/-! ## The shapes of effects -/

/-- A packet is sent with the echo discarded, or there is no transaction and the call is answered with an error. -/
def Sends (w : Packet) (s t : State) : Prop :=
  (s.txnOpen = true ∧ PacketSent w s t) ∨ (s.txnOpen = false ∧ t = s.raise .preconditionViolation)

/-- Transactions were opened and closed: the events have the given shape, received bytes aside. -/
def BusDone (shape : List Event) (s t : State) : Prop :=
  ∃ evs bus tx rx, t = { s with
    sel := false
    modeOn := false
    busIn := bus
    shiftTx := tx
    shiftRx := rx
    trace := s.trace ++ evs } ∧ evs.map Event.sent = shape

/-- The device was torn down. -/
def DeviceDown (s t : State) : Prop :=
  ∃ evs bus tx rx, t = { s with
    devLive := false
    txnOpen := false
    sel := false
    modeOn := false
    busIn := bus
    shiftTx := tx
    shiftRx := rx
    trace := s.trace ++ evs } ∧
  evs.map Event.sent = (if s.txnOpen then closeShape else []) ++ transactionShape s.cfg [resetWord s.cfg]

/-- What an instruction that answers a next state can have done. -/
def ExecEffect (i : Instr) (s t : State) : Prop :=
  match i with
  | .wrctrl f => s.devLive = true ∧ Sends (buildControlWord s.cfg f) s t
  | .swrst => s.devLive = true ∧ Sends (resetWord s.cfg) s t
  | .wrupd v => s.devLive = true ∧ Sends (encodeSetOutput s.cfg v) s t
  | .buildControlWord f => t = s.answer (.packet (buildControlWord s.cfg f))
  | .encodeSetOutput v => t = s.answer (.packet (encodeSetOutput s.cfg v))
  | .transfer w => s.devLive = true ∧
      ((s.txnOpen = true ∧ ∃ r0 r1 r2 bus, t = { s with
          busIn := bus
          shiftTx := 0
          shiftRx := fromBytes r0 r1 r2
          trace := s.trace ++
            [.exchange (toBytes w).1 r0, .exchange (toBytes w).2.1 r1, .exchange (toBytes w).2.2 r2]
          replies := s.replies ++ [.ok (.echo (fromBytes r0 r1 r2))] }) ∨
       (s.txnOpen = false ∧ t = s.raise .preconditionViolation))
  | .sendControlRegister => s.devLive = true ∧ Sends s.ctrlWord s t
  | .softReset => s.devLive = true ∧ Sends (resetWord s.cfg) s t
  | .setOutput v => s.devLive = true ∧ Sends (encodeSetOutput s.cfg v) s t
  | .deviceTeardown => s.devLive = true ∧ ∃ u, DeviceDown s u ∧ t = u.answer .none
  | .openTransaction => s.devLive = true ∧
      ((s.txnOpen = false ∧ ∃ r bus tx rx, t = { s with
          txnOpen := true
          sel := true
          modeOn := true
          busIn := bus
          shiftTx := tx
          shiftRx := rx
          trace := s.trace ++ [.modeApplied, .exchange s.cfg.dummyByte r, .selectAsserted]
          replies := s.replies ++ [.ok .none] }) ∨
       (s.txnOpen = true ∧ t = s.raise .preconditionViolation))
  | .closeTransaction => s.devLive = true ∧
      ((s.txnOpen = true ∧ t = { s with
          txnOpen := false
          sel := false
          modeOn := false
          trace := s.trace ++ [.selectDeasserted, .modeReleased]
          replies := s.replies ++ [.ok .none] }) ∨
       (s.txnOpen = false ∧ t = s.raise .preconditionViolation))
  | .initializeBoard => s.devLive = true ∧ s.lifecycle = .uninitialized ∧
      ((s.txnOpen = true ∧ t = (bringUp s).raise .preconditionViolation) ∨
       (s.txnOpen = false ∧ ∃ u, BusDone (bringUpShape s) (bringUp s) u ∧ t = (enableBoard u).answer .none))
  | .registerModule p => (s.lifecycle = .uninitialized ∨ s.lifecycle = .initializing) ∧
      ((s.count = s.cfg.cap ∧ t = s.raise .capacityExceeded) ∨
       (s.count ≠ s.cfg.cap ∧ p = s.count ∧ t = (registerAt s.count s).answer (.handle s.count)))
  | .stepControlCycle => s.devLive = true ∧ s.lifecycle = .ready ∧
      ((s.txnOpen = true ∧ t = (s.stepModules s.count).raise .preconditionViolation) ∨
       (s.txnOpen = false ∧ ∃ u,
          BusDone (transactionShape s.cfg (batchPackets s.count (s.stepModules s.count))) (s.stepModules s.count) u ∧
          t = u.answer .none))
  | .setOutputs vs => s.devLive = true ∧ s.lifecycle = .ready ∧
      ((s.count < vs.length ∧ t = s.raise .outOfRange) ∨
       (vs.length ≤ s.count ∧ s.txnOpen = true ∧ t = (cacheOutputs vs s).raise .preconditionViolation) ∨
       (vs.length ≤ s.count ∧ s.txnOpen = false ∧ ∃ u,
          BusDone (transactionShape s.cfg (vs.map (encodeSetOutput s.cfg))) (cacheOutputs vs s) u ∧
          t = u.answer .none))
  | .enableAllAmps => s.lifecycle = .ready ∧ t = (s.writeAmps s.count true).answer .none
  | .disableAllAmps => s.lifecycle ≠ .shutdown ∧ t = (s.writeAmps s.cfg.cap false).answer .none
  | .setLed p b => s.lifecycle = .ready ∧
      ((s.count ≤ p ∧ t = s.raise .outOfRange) ∨ (p < s.count ∧ t = (s.ledWrite p b).answer .none))
  | .readButtons => s.lifecycle = .ready ∧
      t = (s.pollButtons 0 s.cfg.thresh).2.answer (.magnitudes (s.pollButtons 0 s.cfg.thresh).1)
  | .isPressed role => s.lifecycle = .ready ∧ role < s.cfg.nbtn ∧ t = s.answer (.pressed (buttonLatch role s))
  | .registryTeardown => s.lifecycle ≠ .shutdown ∧
      ((s.devLive = true ∧ ∃ u, DeviceDown (s.writeAmps s.cfg.cap false) u ∧
          t = ({ u with lifecycle := .shutdown } : State).answer .none) ∨
       (s.devLive = false ∧ t = ({ s.writeAmps s.cfg.cap false with lifecycle := .shutdown } : State).answer .none))

/-! ## Inversions -/

theorem finish_next {r : Run Value} {t : State} (h : r.finish = .next t) :
    (∃ v s, r = .ok v s ∧ t = s.answer v) ∨ ∃ e s, r = .raised e s ∧ t = s.raise e := by
  cases r with
  | ok v s => cases h; exact .inl ⟨v, s, rfl, rfl⟩
  | raised e s => cases h; exact .inr ⟨e, s, rfl, rfl⟩

theorem sends_of_finish {w : Packet} {s t : State}
    (h : ((sendOnly w s).andThen fun _ s => .ok .none s).finish = .next t) : Sends w s t := by
  cases ho : s.txnOpen with
  | true =>
    obtain ⟨r0, r1, r2, bus, hs⟩ := sendOnly_open ho w
    rw [hs] at h
    cases h
    exact .inl ⟨ho, r0, r1, r2, bus, _, _, rfl⟩
  | false =>
    rw [sendOnly_closed ho] at h
    cases h
    exact .inr ⟨ho, rfl⟩

theorem transaction_done {s : State} (h : s.txnOpen = false) (ws : List Packet) :
    ∃ u, transaction ws s = .ok () u ∧ BusDone (transactionShape s.cfg ws) s u := by
  obtain ⟨evs, bus, tx, rx, ht, he⟩ := transaction_closed h ws
  exact ⟨_, ht, evs, bus, tx, rx, rfl, he⟩

theorem teardown_done (s : State) : ∃ u, teardownDevice s = .ok () u ∧ DeviceDown s u := by
  obtain ⟨evs, bus, tx, rx, ht, he⟩ := teardownDevice_spec s
  exact ⟨_, ht, evs, bus, tx, rx, rfl, he⟩

theorem bringUpDac_done {s : State} (h : s.txnOpen = false) :
    ∃ u, bringUpDac s = .ok () u ∧ BusDone (bringUpShape s) s u := by
  obtain ⟨evs, bus, tx, rx, ht, he⟩ := bringUpDac_closed h
  exact ⟨_, ht, evs, bus, tx, rx, rfl, he⟩

@[simp] theorem stepModules_cfg (n : Nat) (s : State) : (s.stepModules n).cfg = s.cfg := by
  obtain ⟨_, _, _, _, _, h, _⟩ := stepModules_frame n s
  rw [h]

@[simp] theorem stepModules_txnOpen (n : Nat) (s : State) : (s.stepModules n).txnOpen = s.txnOpen := by
  obtain ⟨_, _, _, _, _, h, _⟩ := stepModules_frame n s
  rw [h]

@[simp] theorem stepModules_count (n : Nat) (s : State) : (s.stepModules n).count = s.count := by
  obtain ⟨_, _, _, _, _, h, _⟩ := stepModules_frame n s
  rw [h]

/-- The packets of `setOutputs` are those of the values supplied. -/
theorem batchPackets_cacheOutputs (vs : List Value16) (s : State) :
    batchPackets vs.length (cacheOutputs vs s) = vs.map (encodeSetOutput s.cfg) := by
  simp [batchPackets, cacheOutputs]

/-- The inversion of `exec`: everything an instruction that answers a next state can have done. -/
theorem exec_inv {i : Instr} {s t : State} (h : exec i s = .next t) : ExecEffect i s t := by
  cases i with
  | wrctrl f =>
    obtain ⟨hd, h⟩ := needDevice_next h
    split at h
    · exact ⟨hd, sends_of_finish h⟩
    · cases h
  | swrst => obtain ⟨hd, h⟩ := needDevice_next h; exact ⟨hd, sends_of_finish h⟩
  | wrupd v => obtain ⟨hd, h⟩ := needDevice_next h; exact ⟨hd, sends_of_finish h⟩
  | buildControlWord f =>
    simp only [exec, execBuildControlWord] at h
    split at h <;> cases h
    rfl
  | encodeSetOutput v => cases h; rfl
  | transfer w =>
    obtain ⟨hd, h⟩ := needDevice_next h
    refine ⟨hd, ?_⟩
    cases ho : s.txnOpen with
    | true =>
      obtain ⟨r0, r1, r2, bus, hs⟩ := transferPacket_open ho w
      rw [hs] at h
      cases h
      exact .inl ⟨rfl, r0, r1, r2, bus, by simp [State.answer, ho]⟩
    | false =>
      rw [transferPacket_closed ho] at h
      cases h
      exact .inr ⟨rfl, rfl⟩
  | sendControlRegister => obtain ⟨hd, h⟩ := needDevice_next h; exact ⟨hd, sends_of_finish h⟩
  | softReset => obtain ⟨hd, h⟩ := needDevice_next h; exact ⟨hd, sends_of_finish h⟩
  | setOutput v => obtain ⟨hd, h⟩ := needDevice_next h; exact ⟨hd, sends_of_finish h⟩
  | deviceTeardown =>
    obtain ⟨hd, h⟩ := needDevice_next h
    obtain ⟨u, hu, hdown⟩ := teardown_done s
    rw [hu] at h
    cases h
    exact ⟨hd, u, hdown, rfl⟩
  | openTransaction =>
    obtain ⟨hd, h⟩ := needDevice_next h
    refine ⟨hd, ?_⟩
    cases ho : s.txnOpen with
    | true => rw [openBus_open ho] at h; cases h; exact .inr ⟨rfl, rfl⟩
    | false =>
      obtain ⟨r, bus, tx, rx, hs⟩ := openBus_closed ho
      rw [hs] at h
      cases h
      exact .inl ⟨rfl, r, bus, tx, rx, rfl⟩
  | closeTransaction =>
    obtain ⟨hd, h⟩ := needDevice_next h
    refine ⟨hd, ?_⟩
    cases ho : s.txnOpen with
    | true => rw [closeBus_open ho] at h; cases h; exact .inl ⟨rfl, rfl⟩
    | false => rw [closeBus_closed ho] at h; cases h; exact .inr ⟨rfl, rfl⟩
  | initializeBoard =>
    obtain ⟨hd, h⟩ := needDevice_next h
    obtain ⟨hl, h⟩ := needLifecycle_next h
    refine ⟨hd, mem_admitsInitialize.1 hl, ?_⟩
    cases ho : s.txnOpen with
    | true =>
      rw [bringUpDac_open (by simp [bringUp_spec, ho])] at h
      cases h
      exact .inl ⟨rfl, rfl⟩
    | false =>
      obtain ⟨u, hu, hdone⟩ := bringUpDac_done (s := bringUp s) (by simp [bringUp_spec, ho])
      rw [hu] at h
      cases h
      exact .inr ⟨rfl, u, by simpa [bringUpShape, bringUp_spec] using hdone, rfl⟩
  | registerModule p =>
    obtain ⟨hl, h⟩ := needLifecycle_next h
    refine ⟨mem_admitsRegister.1 hl, ?_⟩
    split at h
    · rename_i hc
      cases h
      exact .inl ⟨hc, rfl⟩
    · rename_i hc
      split at h
      · cases h
      · rename_i hp
        cases h
        exact .inr ⟨hc, not_not.1 hp, rfl⟩
  | stepControlCycle =>
    obtain ⟨hd, h⟩ := needDevice_next h
    obtain ⟨hl, h⟩ := needLifecycle_next h
    refine ⟨hd, mem_admitsReady.1 hl, ?_⟩
    simp only [stepModules_count] at h
    cases ho : s.txnOpen with
    | true => rw [transaction_open (by simp [ho])] at h; cases h; exact .inl ⟨rfl, rfl⟩
    | false =>
      obtain ⟨u, hu, hdone⟩ := transaction_done (s := s.stepModules s.count) (by simp [ho])
        (batchPackets s.count (s.stepModules s.count))
      rw [hu] at h
      cases h
      exact .inr ⟨rfl, u, by simpa using hdone, rfl⟩
  | setOutputs vs =>
    obtain ⟨hd, h⟩ := needDevice_next h
    obtain ⟨hl, h⟩ := needLifecycle_next h
    refine ⟨hd, mem_admitsReady.1 hl, ?_⟩
    split at h
    · rename_i hc
      cases h
      exact .inl ⟨hc, rfl⟩
    · rename_i hc
      refine .inr ?_
      simp only [batchPackets_cacheOutputs] at h
      cases ho : s.txnOpen with
      | true =>
        rw [transaction_open (by simp [cacheOutputs, ho])] at h
        cases h
        exact .inl ⟨Nat.le_of_not_lt hc, rfl, rfl⟩
      | false =>
        obtain ⟨u, hu, hdone⟩ := transaction_done (s := cacheOutputs vs s) (by simp [cacheOutputs, ho])
          (vs.map (encodeSetOutput s.cfg))
        rw [hu] at h
        cases h
        exact .inr ⟨Nat.le_of_not_lt hc, rfl, u, by simpa [cacheOutputs] using hdone, rfl⟩
  | enableAllAmps =>
    obtain ⟨hl, h⟩ := needLifecycle_next h
    cases h
    exact ⟨mem_admitsReady.1 hl, rfl⟩
  | disableAllAmps =>
    obtain ⟨hl, h⟩ := needLifecycle_next h
    cases h
    exact ⟨mem_admitsBeforeShutdown.1 hl, rfl⟩
  | setLed p b =>
    obtain ⟨hl, h⟩ := needLifecycle_next h
    refine ⟨mem_admitsReady.1 hl, ?_⟩
    split at h
    · rename_i hc; cases h; exact .inl ⟨hc, rfl⟩
    · rename_i hc; cases h; exact .inr ⟨Nat.lt_of_not_le hc, rfl⟩
  | readButtons =>
    obtain ⟨hl, h⟩ := needLifecycle_next h
    cases h
    exact ⟨mem_admitsReady.1 hl, rfl⟩
  | isPressed role =>
    obtain ⟨hl, h⟩ := needLifecycle_next h
    split at h
    · rename_i hr
      cases h
      exact ⟨mem_admitsReady.1 hl, (roleTyped_iff _ _).1 hr, rfl⟩
    · cases h
  | registryTeardown =>
    obtain ⟨hl, h⟩ := needLifecycle_next h
    refine ⟨mem_admitsBeforeShutdown.1 hl, ?_⟩
    have hw : (s.writeAmps s.cfg.cap false).devLive = s.devLive := by rw [writeAmps_spec]
    simp only [hw] at h
    cases hd : s.devLive with
    | true =>
      obtain ⟨u, hu, hdown⟩ := teardown_done (s.writeAmps s.cfg.cap false)
      rw [if_pos hd, hu] at h
      cases h
      exact .inl ⟨rfl, u, hdown, rfl⟩
    | false =>
      rw [if_neg (by simp [hd])] at h
      cases h
      exact .inr ⟨rfl, rfl⟩

/-- The inversion of `step`: the block waited, or the call at the port ran. -/
theorem step_inv {s t : State} (h : step s = .next t) :
    (s.hostPort = [] ∧ t = s) ∨
    ∃ i rest, decode s.hostPort = .ok i rest ∧ exec i { s with hostPort := rest } = .next t := by
  unfold step fetch at h
  split at h <;> rename_i hf <;> split at hf
  · cases h; exact .inl ⟨by assumption, rfl⟩
  · split at hf <;> cases hf
  · cases hf
  · cases h
  · cases hf
  · rename_i hp
    split at hf <;> cases hf
    rename_i rest hdec
    exact .inr ⟨_, _, by rw [hp]; exact hdec, h⟩

end Sys2Proof.Machine
end

