-- ==== Sys2Proof/Laws/PerInstr.lean ====
section
/-! SUPPORT. The first byte of the call of each instruction: its selector of 30_encoding.md R58, or the first transmit
byte of its frame (R49, R53, R57), which is the same for every operand. -/

namespace Sys2Proof.Laws

/-- The first byte by which the decoder knows an instruction. -/
def EncodeHead.firstByte : Instr → Byte
  | .wrctrl _ => 0x40
  | .swrst => 0xF0
  | .wrupd _ => 0x30
  | .buildControlWord _ => 0x01
  | .encodeSetOutput _ => 0x02
  | .transfer _ => 0x03
  | .sendControlRegister => 0x04
  | .softReset => 0x05
  | .setOutput _ => 0x06
  | .deviceTeardown => 0x07
  | .openTransaction => 0x08
  | .closeTransaction => 0x09
  | .initializeBoard => 0x10
  | .registerModule _ => 0x11
  | .stepControlCycle => 0x12
  | .setOutputs _ => 0x13
  | .enableAllAmps => 0x14
  | .disableAllAmps => 0x15
  | .setLed _ _ => 0x16
  | .readButtons => 0x17
  | .isPressed _ => 0x18
  | .registryTeardown => 0x19

/-- The bytes of an instruction start with its first byte. -/
def EncodeHead.Statement (i : Instr) : Prop :=
  (encode i).head? = some (EncodeHead.firstByte i)

theorem EncodeHead.wrctrl (fields : CtrlFields) : EncodeHead.Statement (.wrctrl fields) := by
  have h : (wrctrlFrame fields).extractLsb' 16 8 = 0x40#8 := by
    simp only [wrctrlFrame]
    apply BitVec.eq_of_getLsbD_eq
    intro i hi
    simp only [BitVec.getLsbD_extractLsb', BitVec.getLsbD_append, hi, decide_true, Bool.true_and]
    interval_cases i <;> rfl
  exact congrArg some h

theorem EncodeHead.swrst : EncodeHead.Statement .swrst := rfl

theorem EncodeHead.wrupd (value : Value16) : EncodeHead.Statement (.wrupd value) := by
  exact congrArg some (upper_append 0x30#8 value)

theorem EncodeHead.buildControlWord (fields : CtrlFields) : EncodeHead.Statement (.buildControlWord fields) := rfl

theorem EncodeHead.encodeSetOutput (value : Value16) : EncodeHead.Statement (.encodeSetOutput value) := rfl

theorem EncodeHead.transfer (packet : Packet) : EncodeHead.Statement (.transfer packet) := rfl

theorem EncodeHead.sendControlRegister : EncodeHead.Statement .sendControlRegister := rfl

theorem EncodeHead.softReset : EncodeHead.Statement .softReset := rfl

theorem EncodeHead.setOutput (value : Value16) : EncodeHead.Statement (.setOutput value) := rfl

theorem EncodeHead.deviceTeardown : EncodeHead.Statement .deviceTeardown := rfl

theorem EncodeHead.openTransaction : EncodeHead.Statement .openTransaction := rfl

theorem EncodeHead.closeTransaction : EncodeHead.Statement .closeTransaction := rfl

theorem EncodeHead.initializeBoard : EncodeHead.Statement .initializeBoard := rfl

theorem EncodeHead.registerModule (position : Nat) : EncodeHead.Statement (.registerModule position) := rfl

theorem EncodeHead.stepControlCycle : EncodeHead.Statement .stepControlCycle := rfl

theorem EncodeHead.setOutputs (values : List Value16) : EncodeHead.Statement (.setOutputs values) := rfl

theorem EncodeHead.enableAllAmps : EncodeHead.Statement .enableAllAmps := rfl

theorem EncodeHead.disableAllAmps : EncodeHead.Statement .disableAllAmps := rfl

theorem EncodeHead.setLed (position : Nat) (state : Bool) : EncodeHead.Statement (.setLed position state) := rfl

theorem EncodeHead.readButtons : EncodeHead.Statement .readButtons := rfl

theorem EncodeHead.isPressed (role : Nat) : EncodeHead.Statement (.isPressed role) := rfl

theorem EncodeHead.registryTeardown : EncodeHead.Statement .registryTeardown := rfl

end Sys2Proof.Laws
end

