-- ==== Sys2Proof/Laws/Serial.lean ====
section
/-! SUPPORT. The bit-level shift, a byte at a time: eight periods move both registers as one exchange of
Machine/Ops.lean does. -/

namespace Sys2Proof.Machine

/-- Two runs of periods end to end. -/
theorem clockPeriods_append (a b : List Bool) (r : ShiftRegs) :
    clockPeriods (a ++ b) r =
      ((clockPeriods a r).1 ++ (clockPeriods b (clockPeriods a r).2).1, (clockPeriods b (clockPeriods a r).2).2) := by
  induction a generalizing r with
  | nil => rfl
  | cons x a ih => simp [clockPeriods, ih]

/-- Eight periods: the top byte of the transmit register leaves, most significant bit first, and the byte received
enters at the bottom of the receive register. -/
theorem clockPeriods_byte (b : Byte) (r : ShiftRegs) :
    clockPeriods (bitsMsbFirst b) r =
      (bitsMsbFirst (r.tx.extractLsb' 16 8), ⟨r.tx <<< 8, (r.rx <<< 8) ||| b.setWidth 24⟩) := by
  obtain ⟨tx, rx⟩ := r
  have shl : ∀ (x : BitVec 24) (m n : Nat), (x <<< m) <<< n = x <<< (m + n) := fun x m n => by
    rw [BitVec.shiftLeft_add]
  simp only [bitsMsbFirst, clockPeriods, clockPeriod, Prod.mk.injEq, ShiftRegs.mk.injEq, List.cons.injEq, and_true]
  refine ⟨by simp, by simp only [shl], BitVec.eq_of_getLsbD_eq fun i hi => ?_⟩
  simp only [BitVec.shiftLeft_or_distrib, shl, BitVec.getLsbD_or, BitVec.getLsbD_shiftLeft, hi, BitVec.getLsbD_setWidth,
    BitVec.getLsbD_ofBool]
  rcases Nat.lt_or_ge i 8 with h | h
  · interval_cases i <;> simp
  · simp [BitVec.getLsbD_of_ge _ _ h, show ¬ i < 8 by omega, show i - 7 ≠ 0 by omega, show i - 6 ≠ 0 by omega,
      show i - 5 ≠ 0 by omega, show i - 4 ≠ 0 by omega, show i - 3 ≠ 0 by omega, show i - 2 ≠ 0 by omega,
      show i - 1 ≠ 0 by omega, show i ≠ 0 by omega]

end Sys2Proof.Machine
end

