-- ==== Sys2Proof/Laws/Trace.lean ====
section
/-! SUPPORT. Reading TRACE: neither the bus phase nor the packets depend on the bytes received, and both are known for
the shapes of Machine/Trace.lean. -/

namespace Sys2Proof.Machine

/-! ## The received bytes do not count -/

@[simp] theorem Event.sent_offBus (e : Event) : e.sent.offBus = e.offBus := by cases e <;> rfl

theorem BusPhase.after_sent (dummy : Byte) (p : BusPhase) (e : Event) : p.after dummy e.sent = p.after dummy e := by
  cases e <;> cases p <;> rfl

theorem busPhaseFrom_sent (dummy : Byte) (p : BusPhase) (t : List Event) :
    busPhaseFrom dummy p (t.map Event.sent) = busPhaseFrom dummy p t := by
  induction t generalizing p with
  | nil => rfl
  | cons e t ih => simp [busPhaseFrom, BusPhase.after_sent, ih]

theorem transactionsFrom_sent (window : Option (List Byte)) (t : List Event) :
    transactionsFrom window (t.map Event.sent) = transactionsFrom window t := by
  induction t generalizing window with
  | nil => rfl
  | cons e t ih => cases e <;> cases window <;> simp [transactionsFrom, Event.sent, ih]

/-! ## Two traces end to end -/

theorem busPhaseFrom_append (dummy : Byte) (p : BusPhase) (a b : List Event) :
    busPhaseFrom dummy p (a ++ b) = (busPhaseFrom dummy p a).bind fun q => busPhaseFrom dummy q b := by
  induction a generalizing p with
  | nil => rfl
  | cons e a ih =>
    simp only [List.cons_append, busPhaseFrom]
    cases p.after dummy e with
    | none => rfl
    | some q => exact ih q

/-- Events that are not on the bus leave a phase between operations as it is. -/
theorem busPhaseFrom_offBus (dummy : Byte) {p : BusPhase} (hp : p = .idle ∨ p = .selected 0) {t : List Event}
    (h : ∀ e ∈ t, e.offBus = true) : busPhaseFrom dummy p t = some p := by
  induction t with
  | nil => rfl
  | cons e t ih =>
    have he : p.after dummy e = some p := by
      have := h e (by simp)
      rcases hp with rfl | rfl <;> cases e <;> first | rfl | cases this
    simp [busPhaseFrom, he, ih fun e he => h e (by simp [he])]

/-- Events that are not on the bus hold no packet. -/
theorem transactionsFrom_offBus {t : List Event} (h : ∀ e ∈ t, e.offBus = true) (window : Option (List Byte))
    (rest : List Event) : transactionsFrom window (t ++ rest) = transactionsFrom window rest := by
  induction t with
  | nil => rfl
  | cons e t ih =>
    have ih := ih fun e he => h e (by simp [he])
    have := h e (by simp)
    cases e <;> first | (cases window <;> simpa [transactionsFrom] using ih) | simp [Event.offBus] at this

/-! ## The shapes -/

/-- Three bytes make a packet, after which the window stands as before. -/
theorem busPhaseFrom_packet (dummy b0 b1 b2 r0 r1 r2 : Byte) :
    busPhaseFrom dummy (.selected 0) [.exchange b0 r0, .exchange b1 r1, .exchange b2 r2] = some (.selected 0) := rfl

theorem busPhaseFrom_packets (dummy : Byte) (ws : List Packet) :
    busPhaseFrom dummy (.selected 0) (ws.flatMap packetShape) = some (.selected 0) := by
  induction ws with
  | nil => rfl
  | cons w ws ih =>
    have hw : busPhaseFrom dummy (.selected 0) (packetShape w) = some (.selected 0) := busPhaseFrom_packet ..
    rw [List.flatMap_cons, busPhaseFrom_append, hw, Option.bind_some, ih]

/-- `open` leads from outside a transaction into a window with nothing sent. -/
theorem busPhaseFrom_open (c : Config) : busPhaseFrom c.dummyByte .idle (openShape c) = some (.selected 0) := by
  have hd : (BusPhase.modeApplied).after c.dummyByte (.exchange c.dummyByte 0) = some .settled := if_pos rfl
  have hm : (BusPhase.idle).after c.dummyByte .modeApplied = some .modeApplied := rfl
  simp only [openShape, busPhaseFrom, hm, hd, Option.bind_some]
  rfl

/-- A transaction starts and ends outside a transaction. -/
theorem busPhaseFrom_transaction (c : Config) (ws : List Packet) :
    busPhaseFrom c.dummyByte .idle (transactionShape c ws) = some .idle := by
  rw [transactionShape, busPhaseFrom_append, busPhaseFrom_append]
  rw [busPhaseFrom_open, Option.bind_some, busPhaseFrom_packets]
  rfl

theorem groupPackets_packet (w : Packet) (bs : List Byte) :
    groupPackets ((toBytes w).1 :: (toBytes w).2.1 :: (toBytes w).2.2 :: bs) = w :: groupPackets bs := by
  have h : fromBytes (toBytes w).1 (toBytes w).2.1 (toBytes w).2.2 = w := by
    apply BitVec.eq_of_getLsbD_eq
    intro i hi
    rw [toBytes_eq]
    simp only [fromBytes, BitVec.getLsbD_or, BitVec.getLsbD_shiftLeft, BitVec.getLsbD_setWidth,
      BitVec.getLsbD_extractLsb']
    rcases Nat.lt_or_ge i 8 with h | h
    · simp [h, hi, show i < 16 by omega]
    · rcases Nat.lt_or_ge i 16 with h' | h'
      · simp [hi, h', show ¬ i < 8 by omega, show i - 8 < 8 by omega, show i - 8 < 24 by omega,
          show 8 + (i - 8) = i by omega]
      · simp [hi, show ¬ i < 16 by omega, show ¬ i < 8 by omega, show ¬ i - 8 < 8 by omega, show i - 16 < 8 by omega,
          show i - 16 < 24 by omega, show 16 + (i - 16) = i by omega]
  simp [groupPackets, h]

/-- The bytes of packets, three each. -/
theorem groupPackets_flatMap (ws : List Packet) :
    groupPackets (ws.flatMap fun w => [(toBytes w).1, (toBytes w).2.1, (toBytes w).2.2]) = ws := by
  induction ws with
  | nil => rfl
  | cons w ws ih =>
    simp only [List.flatMap_cons, List.cons_append, List.nil_append, groupPackets_packet, ih]

/-- Packets inside a window add their bytes to it. -/
theorem transactionsFrom_packets (ws : List Packet) (bs : List Byte) (rest : List Event) :
    transactionsFrom (some bs) (ws.flatMap packetShape ++ rest) =
      transactionsFrom (some (bs ++ ws.flatMap fun w => [(toBytes w).1, (toBytes w).2.1, (toBytes w).2.2])) rest := by
  induction ws generalizing bs with
  | nil => simp
  | cons w ws ih => simp [packetShape, transactionsFrom, ih]

/-- A transaction is read back as the list of its packets. -/
theorem transactionsFrom_transaction (c : Config) (ws : List Packet) (rest : List Event) :
    transactionsFrom none (transactionShape c ws ++ rest) = ws :: transactionsFrom none rest := by
  simp only [transactionShape, openShape, closeShape, List.cons_append, List.nil_append, List.append_assoc,
    transactionsFrom, transactionsFrom_packets, groupPackets_flatMap]

/-- Events off the bus after a trace add no packet. -/
theorem transactionsFrom_append_offBus {later : List Event} (h : ∀ e ∈ later, e.offBus = true)
    (window : Option (List Byte)) (t : List Event) :
    transactionsFrom window (t ++ later) = transactionsFrom window t := by
  induction t generalizing window with
  | nil => simpa using transactionsFrom_offBus h window []
  | cons e t ih => cases e <;> cases window <;> simp [transactionsFrom, ih]

/-- Whatever stands before it, a transaction at the end of a trace is the last one read. -/
theorem transactionsFrom_append_transaction (c : Config) (ws : List Packet) (window : Option (List Byte))
    (t : List Event) : ∃ earlier, transactionsFrom window (t ++ transactionShape c ws) = earlier ++ [ws] := by
  induction t generalizing window with
  | nil =>
    exact ⟨[], by
      cases window <;> simp [transactionShape, openShape, closeShape, transactionsFrom, transactionsFrom_packets,
        groupPackets_flatMap]⟩
  | cons e t ih =>
    cases e <;> cases window <;> simp only [List.cons_append, transactionsFrom] <;>
      first
      | exact ih _
      | (obtain ⟨earlier, h⟩ := ih none; exact ⟨_ :: earlier, by rw [h, List.cons_append]⟩)

/-- The last packet of a trace that ends in a transaction is that transaction's last. -/
theorem packets_append_transaction (c : Config) (ws : List Packet) (w : Packet) {t evs : List Event}
    {earlier : List Event} (h : evs.map Event.sent = earlier ++ transactionShape c (ws ++ [w])) :
    (packets (t ++ evs)).getLast? = some w := by
  obtain ⟨first, hf⟩ := transactionsFrom_append_transaction c (ws ++ [w]) none (t.map Event.sent ++ earlier)
  rw [packets, transactions, ← transactionsFrom_sent, List.map_append, h, ← List.append_assoc, hf]
  simp

end Sys2Proof.Machine
end

