-- ==== Sys2Proof/Tests/Slice0.lean ====
section
/-! SUPPORT. Tests of one step each, their expected results from 95_test_vectors.md or worked by hand from the rules;
and for every statement with premises a witness that meets them. -/

namespace Sys2Proof.Tests

open Sys2Proof.Machine

/-! ## Helpers -/

/-- The next state, if there is one. -/
def after (i : Instr) (s : State) : Option State :=
  match exec i s with
  | .next t => some t
  | _ => none

/-- The refusal, if there is one. -/
def refusal (i : Instr) (s : State) : Option Refusal :=
  match exec i s with
  | .refused r => some r
  | _ => none

/-- Status of the last call, the events it appended without received bytes, and a field of the state. -/
def effect {α : Type} (field : State → α) (i : Instr) (s : State) : Option (Option Reply × List Event × α) :=
  (after i s).map fun t => (t.replies.getLast?, (t.trace.drop s.trace.length).map Event.sent, field t)

/-- Reset, with `open()` done. -/
def opened : State := { State.reset with txnOpen := true, sel := true, modeOn := true }

/-- Reset, with `n` modules registered. -/
def registered (n : Nat) : State :=
  { State.reset with
    count := n
    out := List.replicate n 0
    pos := List.replicate n 0
    led := List.replicate n false }

/-- `Ready` with `n` modules, every registered amp and LED on. -/
def ready (n : Nat) : State :=
  { registered n with
    lifecycle := .ready
    led := List.replicate n true
    amp := List.replicate n true ++ List.replicate (6 - n) false }

/-- Device teardown done. -/
def gone : State := { State.reset with devLive := false }

/-! ## Ill-formed instructions -/

theorem test_wf_wrctrl_pv_too_wide : ¬ WellFormed (.wrctrl ⟨0, 0, 0, 0, 0, 4, 0⟩) := by decide

theorem test_wf_wrctrl_ra_too_wide : ¬ WellFormed (.wrctrl ⟨0, 0, 0, 0, 0, 0, 8⟩) := by decide

theorem test_wf_register_position : ¬ WellFormed (.registerModule 4294967296) := by decide

theorem test_wf_setLed_position : ¬ WellFormed (.setLed 4294967296 true) := by decide

theorem test_wf_isPressed_role : ¬ WellFormed (.isPressed 4294967296) := by decide

theorem test_wf_setOutputs_length (vs : List Value16) (h : vs.length = 65536) : ¬ WellFormed (.setOutputs vs) := by
  simp [WellFormed, h]

theorem test_wf_accepts_widest :
    WellFormed (.wrctrl ⟨3, 1, 1, 1, 1, 3, 7⟩) ∧ WellFormed (.registerModule 4294967295) := by decide

/-! ## Decoding: words written out from 30_encoding.md R47 to R53, R57, R58 -/

/-- V-E7: bits 10:9 = 10, 8 = 1, 7 = 0, 6 = 1, 5 = 0, 4:3 = 01, 2:0 = 011. -/
theorem test_decode_wrctrl : decode [0x40, 0b00000101, 0b01001011] = .ok (.wrctrl ⟨2, 1, 0, 1, 0, 1, 3⟩) [] := by decide

/-- V-E3: all ones. -/
theorem test_decode_wrctrl_ones : decode [0x40, 0x07, 0xFF, 0x08] = .ok (.wrctrl ⟨3, 1, 1, 1, 1, 3, 7⟩) [0x08] := by
  decide

theorem test_decode_swrst : decode [0xF0, 0x00, 0x00] = .ok .swrst [] := by decide

/-- V-S7: -100. -/
theorem test_decode_wrupd : decode [0x30, 0xFF, 0x9C] = .ok (.wrupd 0xFF9C) [] := by decide

theorem test_decode_buildControlWord :
    decode [0x01, 0, 0, 2, 0, 0, 1, 0, 0, 0, 0, 0, 1, 0, 0, 0, 0, 0, 1, 0, 0, 3] =
      .ok (.buildControlWord ⟨2, 1, 0, 1, 0, 1, 3⟩) [] := by decide

theorem test_decode_encodeSetOutput : decode [0x02, 0xFF, 0x9C] = .ok (.encodeSetOutput 0xFF9C) [] := by decide

theorem test_decode_transfer : decode [0x03, 0xAB, 0xCD, 0xEF] = .ok (.transfer 0xABCDEF) [] := by decide

theorem test_decode_setOutput : decode [0x06, 0x80, 0x00] = .ok (.setOutput 0x8000) [] := by decide

theorem test_decode_device :
    decode [0x04] = .ok .sendControlRegister [] ∧ decode [0x05] = .ok .softReset [] ∧
    decode [0x07] = .ok .deviceTeardown [] := by decide

theorem test_decode_serializer :
    decode [0x08] = .ok .openTransaction [] ∧ decode [0x09] = .ok .closeTransaction [] := by decide

theorem test_decode_orchestrator :
    decode [0x10] = .ok .initializeBoard [] ∧ decode [0x12] = .ok .stepControlCycle [] ∧
    decode [0x19] = .ok .registryTeardown [] := by decide

theorem test_decode_register : decode [0x11, 0, 0, 1, 2] = .ok (.registerModule 258) [] := by decide

theorem test_decode_setOutputs : decode [0x13, 0, 2, 0, 5, 0xFF, 0xFB] = .ok (.setOutputs [5, 0xFFFB]) [] := by decide

theorem test_decode_board :
    decode [0x14] = .ok .enableAllAmps [] ∧ decode [0x15] = .ok .disableAllAmps [] ∧
    decode [0x17] = .ok .readButtons [] := by decide

theorem test_decode_setLed : decode [0x16, 0, 0, 0, 3, 1] = .ok (.setLed 3 true) [] := by decide

theorem test_decode_isPressed : decode [0x18, 0, 0, 0, 1] = .ok (.isPressed 1) [] := by decide

/-- Rejections by name: no byte, no selector, a reserved payload bit of each packet, a cut-off call, a boolean of 2, a
field of 21 bits. -/
theorem test_decode_rejects :
    decode [] = .error .empty ∧ decode [0x0A] = .error (.unknownSelector 0x0A) ∧
    decode [0x9A, 0xBC, 0xDE] = .error (.unknownSelector 0x9A) ∧
    decode [0x40, 0x08, 0x00] = .error (.reservedPayload 0x400800) ∧
    decode [0xF0, 0x00, 0x01] = .error (.reservedPayload 0xF00001) ∧
    decode [0x31, 0x00, 0x00] = .error (.reservedPayload 0x310000) ∧
    decode [0x30, 0xFF] = .error .truncated ∧ decode [0x16, 0, 0, 0, 3, 2] = .error .badOperand ∧
    decode [0x01, 0x10, 0, 0] = .error .badOperand := by decide

/-- A word of the table becomes the next call, and the calls behind it stay. -/
theorem test_placed_word :
    (State.reset.withCall [0x09]).withFetchWord 24 0x30FF9C = { State.reset with hostPort := [0x30, 0xFF, 0x9C, 0x09] } ∧
    (State.reset.withFetchWord 8 0x11).hostPort = [0x11, 0, 0, 0, 0] := by decide

/-! ## The encoder -/

/-- V-E1, V-E2, V-E3. -/
theorem test_buildControlWord :
    effect State.devLive (.buildControlWord .standard) State.reset =
      some (some (.ok (.packet 0x4000E0)), [], true) ∧
    effect State.devLive (.buildControlWord ⟨3, 1, 1, 1, 1, 3, 7⟩) gone =
      some (some (.ok (.packet 0x4007FF)), [], false) := by decide

/-- V-E4 to V-E6: every field by itself. -/
theorem test_buildControlWord_fields :
    buildControlWord .default ⟨1, 0, 0, 0, 0, 0, 0⟩ = 0x400200 ∧ buildControlWord .default ⟨0, 1, 0, 0, 0, 0, 0⟩ = 0x400100 ∧
    buildControlWord .default ⟨0, 0, 1, 0, 0, 0, 0⟩ = 0x400080 ∧ buildControlWord .default ⟨0, 0, 0, 1, 0, 0, 0⟩ = 0x400040 ∧
    buildControlWord .default ⟨0, 0, 0, 0, 1, 0, 0⟩ = 0x400020 ∧ buildControlWord .default ⟨0, 0, 0, 0, 0, 1, 0⟩ = 0x400008 ∧
    buildControlWord .default ⟨0, 0, 0, 0, 0, 0, 5⟩ = 0x400005 := by decide

/-- V-E8, V-E10: extraction, and another opcode. -/
theorem test_extract :
    CtrlField.all.map (fun a => extractField 0x40054B (CtrlLayout.standard.get a)) = [2, 1, 0, 1, 0, 1, 3] ∧
    buildControlWord { Config.default with opcWriteCtrl := 0x1 } .standard = 0x1000E0 := by decide

/-- A value wider than its field cannot be passed (R60). -/
theorem test_field_too_wide :
    refusal (.buildControlWord ⟨4, 0, 0, 0, 0, 0, 0⟩) State.reset = some .fieldTooWide ∧
    refusal (.wrctrl ⟨0, 2, 0, 0, 0, 0, 0⟩) opened = some .fieldTooWide := by decide

/-- V-S3, V-S5: no sign extension past bit 15. -/
theorem test_encodeSetOutput :
    effect State.devLive (.encodeSetOutput (u16 (-1))) State.reset = some (some (.ok (.packet 0x30FFFF)), [], true) ∧
    effect State.devLive (.encodeSetOutput (u16 (-32768))) gone = some (some (.ok (.packet 0x308000)), [], false) := by
  decide

/-- V-R2, V-B2, V-B4. -/
theorem test_bytes :
    resetWord { Config.default with softResetPayload := 0x00001 } = 0xF00001 ∧
    toBytes 0x123456 = (0x12, 0x34, 0x56) ∧ fromBytes 0xFF 0x00 0x01 = 0xFF0001 := by decide

/-! ## The serializer -/

/-- V-T2, V-T3. -/
theorem test_open :
    effect State.txnOpen .openTransaction State.reset =
      some (some (.ok .none), [.modeApplied, .exchange 0 0, .selectAsserted], true) ∧
    effect State.txnOpen .openTransaction opened = some (some (.error .preconditionViolation), [], true) := by decide

/-- V-T5, V-T6. -/
theorem test_close :
    effect State.txnOpen .closeTransaction opened = some (some (.ok .none), [.selectDeasserted, .modeReleased], false) ∧
    effect State.txnOpen .closeTransaction State.reset = some (some (.error .preconditionViolation), [], false) := by
  decide

/-- V-T4 with an echoing bus double, V-T9's packet, V-T1. -/
theorem test_transfer :
    effect State.txnOpen (.transfer 0xABCDEF) { opened with busIn := ⟨[0xAB, 0xCD, 0xEF], 0⟩ } =
      some (some (.ok (.echo 0xABCDEF)), [.exchange 0xAB 0, .exchange 0xCD 0, .exchange 0xEF 0], true) ∧
    (after (.transfer 0x9ABCDE) opened).map (fun t => t.trace.map Event.sent) =
      some [.exchange 0x9A 0, .exchange 0xBC 0, .exchange 0xDE 0] ∧
    effect State.txnOpen (.transfer 0x300000) State.reset =
      some (some (.error .preconditionViolation), [], false) := by decide

/-! ## Device commands -/

/-- V-D1, V-D5. -/
theorem test_sendControlRegister :
    effect State.txnOpen .sendControlRegister opened =
      some (some (.ok .none), [.exchange 0x40 0, .exchange 0x00 0, .exchange 0xE0 0], true) ∧
    effect State.txnOpen .sendControlRegister State.reset =
      some (some (.error .preconditionViolation), [], false) := by decide

/-- V-D2, V-D6. -/
theorem test_softReset :
    effect State.txnOpen .softReset opened =
      some (some (.ok .none), [.exchange 0xF0 0, .exchange 0x00 0, .exchange 0x00 0], true) ∧
    effect State.txnOpen .softReset State.reset = some (some (.error .preconditionViolation), [], false) := by decide

/-- V-D3, V-D7: the cached outputs are not written. -/
theorem test_setOutput :
    effect State.out (.setOutput (u16 (-32768))) { ready 2 with txnOpen := true } =
      some (some (.ok .none), [.exchange 0x30 0, .exchange 0x80 0, .exchange 0x00 0], [0, 0]) ∧
    effect State.out (.setOutput 0) State.reset = some (some (.error .preconditionViolation), [], []) := by decide

/-- The wire packets: V-E7 and V-S7 on the wire. -/
theorem test_wire :
    effect State.txnOpen (.wrctrl ⟨2, 1, 0, 1, 0, 1, 3⟩) opened =
      some (some (.ok .none), [.exchange 0x40 0, .exchange 0x05 0, .exchange 0x4B 0], true) ∧
    effect State.txnOpen .swrst opened =
      some (some (.ok .none), [.exchange 0xF0 0, .exchange 0x00 0, .exchange 0x00 0], true) ∧
    effect State.txnOpen (.wrupd 0xFF9C) opened =
      some (some (.ok .none), [.exchange 0x30 0, .exchange 0xFF 0, .exchange 0x9C 0], true) := by decide

/-- V-D8, V-D9. -/
theorem test_deviceTeardown :
    effect State.devLive .deviceTeardown State.reset = some (some (.ok .none),
      [.modeApplied, .exchange 0 0, .selectAsserted, .exchange 0xF0 0, .exchange 0 0, .exchange 0 0,
        .selectDeasserted, .modeReleased], false) ∧
    effect State.txnOpen .deviceTeardown opened = some (some (.ok .none),
      [.selectDeasserted, .modeReleased, .modeApplied, .exchange 0 0, .selectAsserted, .exchange 0xF0 0,
        .exchange 0 0, .exchange 0 0, .selectDeasserted, .modeReleased], false) := by decide

/-- V-D10 and the other operations that need the device. -/
theorem test_gone_refused :
    [Instr.openTransaction, .closeTransaction, .transfer 0, .sendControlRegister, .softReset, .setOutput 0,
      .deviceTeardown, .initializeBoard, .stepControlCycle, .setOutputs []].map (refusal · gone) =
      List.replicate 10 (some .deviceGone) := by decide

/-! ## The orchestrator -/

/-- V-O1: the first registration, and the seventh. -/
theorem test_register :
    effect State.count (.registerModule 0) State.reset = some (some (.ok (.handle 0)), [.modInit 0], 1) ∧
    effect State.count (.registerModule 6) (registered 6) = some (some (.error .capacityExceeded), [], 6) := by decide

/-- V-O8, R87: the position is not `COUNT`; a full registry answers first. -/
theorem test_register_position :
    refusal (.registerModule 1) State.reset = some .positionNotCount ∧
    effect State.count (.registerModule 0) (registered 6) = some (some (.error .capacityExceeded), [], 6) := by decide

/-- The events of a transaction of one packet, received bytes aside. -/
def oneSent (b0 b1 b2 : Byte) : List Event :=
  [.modeApplied, .exchange 0 0, .selectAsserted, .exchange b0 0, .exchange b1 0, .exchange b2 0, .selectDeasserted,
    .modeReleased]

/-- The events of V-O2 at one module. -/
def initializeEvents : List Event :=
  [.gpioUp, .clockUp, .busUp, .modInit 0] ++
    (oneSent 0xF0 0 0 ++ (oneSent 0x40 0 0xE0 ++ (oneSent 0x30 0 0 ++ [.amp 0 true, .led 0 true])))

/-- V-O2 at one module: eight phases in order. -/
theorem test_initialize :
    effect (fun t => (t.lifecycle, t.amp, t.led)) .initializeBoard (registered 1) =
      some (some (.ok .none), initializeEvents, (.ready, [true, false, false, false, false, false], [true])) := by
  decide

/-- V-O2 and V-O2b: the transactions at three modules, and with a fan-out of one. -/
theorem test_initialize_fanout :
    (after .initializeBoard (registered 3)).map (fun t => transactions t.trace) =
      some [[0xF00000, 0xF00000, 0xF00000], [0x4000E0, 0x4000E0, 0x4000E0], [0x300000, 0x300000, 0x300000]] ∧
    (after .initializeBoard { registered 3 with cfg := { Config.default with initFanout := .constant 1 } }).map
      (fun t => transactions t.trace) = some [[0xF00000], [0x4000E0], [0x300000]] := by decide

/-- P4(b): a transaction left open. -/
theorem test_initialize_open :
    effect State.lifecycle .initializeBoard { registered 1 with txnOpen := true } =
      some (some (.error .preconditionViolation), [.gpioUp, .clockUp, .busUp, .modInit 0], .initializing) := by decide

/-- V-O3: three modules, `v = 100, -100, 0`, `p = 1000, -1000, 0`. -/
theorem test_stepControlCycle :
    (after .stepControlCycle { ready 3 with stepIn := ⟨[100, u16 (-100), 0], 0⟩, posIn := ⟨[1000, -1000, 0], 0⟩ }).map
      (fun t => (t.out, t.pos, t.trace.take 6, transactions t.trace)) =
    some ([100, 0xFF9C, 0], [1000, -1000, 0],
      [.modStep 0 100, .modPos 0 1000, .modStep 1 0xFF9C, .modPos 1 (-1000), .modStep 2 0, .modPos 2 0],
      [[0x300064, 0x30FF9C, 0x300000]]) := by decide

/-- P3: the host's transaction is open; the cache is written before the error. -/
theorem test_stepControlCycle_open :
    effect State.out .stepControlCycle
      { ready 2 with txnOpen := true, stepIn := ⟨[7, 8], 0⟩, posIn := ⟨[0, 0], 0⟩ } =
    some (some (.error .preconditionViolation), [.modStep 0 7, .modPos 0 0, .modStep 1 8, .modPos 1 0], [7, 8]) := by
  decide

/-- V-O4. -/
theorem test_setOutputs :
    (after (.setOutputs [5, u16 (-5)]) (ready 3)).map (fun t => (t.out, transactions t.trace)) =
      some ([5, 0xFFFB, 0], [[0x300005, 0x30FFFB]]) ∧
    effect State.out (.setOutputs [1, 2, 3, 4]) (ready 3) = some (some (.error .outOfRange), [], [0, 0, 0]) ∧
    effect State.out (.setOutputs []) (ready 3) = some (some (.ok .none),
      [.modeApplied, .exchange 0 0, .selectAsserted, .selectDeasserted, .modeReleased], [0, 0, 0]) := by decide

/-- V-O6: six amp lines down, then the reset; a second teardown is refused. -/
theorem test_registryTeardown :
    (after .registryTeardown (ready 3)).map (fun t =>
      (t.lifecycle, t.amp, t.trace.take 6, packets t.trace)) =
      some (.shutdown, List.replicate 6 false, (List.range 6).map (Event.amp · false), [0xF00000]) := by decide

theorem test_registryTeardown_once :
    (after .registryTeardown (ready 3)).map State.devLive = some false ∧
    refusal .registryTeardown { gone with lifecycle := .shutdown } = some .lifecycleNotAdmitted := by decide

/-- V-O8. -/
theorem test_refused_before_ready :
    [Instr.stepControlCycle, .setOutputs [], .enableAllAmps, .setLed 0 true, .readButtons, .isPressed 0].map
      (refusal · State.reset) = List.replicate 6 (some .lifecycleNotAdmitted) ∧
    refusal (.registerModule 0) (ready 0) = some .lifecycleNotAdmitted ∧
    refusal .initializeBoard (ready 0) = some .lifecycleNotAdmitted := by decide

/-! ## Board lines -/

/-- V-O5. -/
theorem test_amps :
    effect State.amp .disableAllAmps (ready 3) =
      some (some (.ok .none), (List.range 6).map (Event.amp · false), List.replicate 6 false) ∧
    effect State.amp .enableAllAmps { ready 3 with amp := List.replicate 6 false } =
      some (some (.ok .none), [.amp 0 true, .amp 1 true, .amp 2 true], [true, true, true, false, false, false]) := by
  decide

/-- V-L1, V-L2, V-L3. -/
theorem test_setLed :
    effect State.led (.setLed 2 false) (ready 3) = some (some (.ok .none), [.led 2 false], [true, true, false]) ∧
    effect State.led (.setLed 3 true) (ready 3) = some (some (.error .outOfRange), [], [true, true, true]) ∧
    effect State.led (.setLed 0 true) (ready 0) = some (some (.error .outOfRange), [], []) := by decide

/-- V-L4; V-L6: equal is not pressed. -/
theorem test_readButtons :
    effect State.btn .readButtons { ready 3 with senseIn := ⟨[620, 480], 0⟩ } =
      some (some (.ok (.magnitudes [620, 480])), [.button 0 620, .button 1 480], [true, false]) ∧
    effect State.btn .readButtons { ready 3 with senseIn := ⟨[500, 501], 0⟩ } =
      some (some (.ok (.magnitudes [500, 501])), [.button 0 500, .button 1 501], [false, true]) := by decide

/-- V-L5, and an index that is no button. -/
theorem test_isPressed :
    effect State.btn (.isPressed 0) { ready 3 with btn := [true, false] } =
      some (some (.ok (.pressed true)), [], [true, false]) ∧
    effect State.btn (.isPressed 1) { ready 3 with btn := [true, false] } =
      some (some (.ok (.pressed false)), [], [true, false]) ∧
    refusal (.isPressed 2) (ready 3) = some .noSuchButton := by decide

/-- The line level needs a write and the level that means "on" (R101). -/
theorem test_lineLevel :
    lineLevel (ampLine 1 [.amp 1 true, .amp 0 false]) (some false) = some false ∧
    lineLevel (ledLine 0 [.led 0 false]) (some true) = some false ∧
    lineLevel (selectLine []) (some true) = none ∧ lineLevel (some true) none = none := by decide

/-- One period of the bus clock (41_serializer.md R75). -/
theorem test_clockPeriod : clockPeriod true ⟨0x800001, 0x000001⟩ = (true, ⟨0x000002, 0x000003⟩) := by decide

/-- V-B5: the bits of `0x30FF9C`. -/
theorem test_bit_order :
    bitsMsbFirst 0x30 = [false, false, true, true, false, false, false, false] ∧
    bitsMsbFirst 0x9C = [true, false, false, true, true, true, false, false] := by decide

/-! ## Witnesses: every statement with premises has inputs that meet all of them -/

/-- `ResetMeetsInvariants`. -/
theorem witness_default_wf : Config.default.Wf :=
  ⟨by decide, by decide, by decide, by decide, by decide, trivial⟩

/-- `ControlWordFieldsRoundTrip`: another layout, its fields at their largest values; bits 3 and 19 belong to no field. -/
theorem witness_fields :
    (CtrlLayout.mk ⟨0, 3⟩ ⟨4, 1⟩ ⟨5, 2⟩ ⟨7, 0⟩ ⟨7, 1⟩ ⟨8, 10⟩ ⟨18, 1⟩).Wf ∧
    (CtrlFields.mk 7 1 3 0 1 1023 1).Fits (CtrlLayout.mk ⟨0, 3⟩ ⟨4, 1⟩ ⟨5, 2⟩ ⟨7, 0⟩ ⟨7, 1⟩ ⟨8, 10⟩ ⟨18, 1⟩) ∧
    ∀ i ∈ [3, 19], ∀ a ∈ CtrlField.all,
      let p := (CtrlLayout.mk ⟨0, 3⟩ ⟨4, 1⟩ ⟨5, 2⟩ ⟨7, 0⟩ ⟨7, 1⟩ ⟨8, 10⟩ ⟨18, 1⟩).get a
      i < p.lsb ∨ p.lsb + p.width ≤ i := by decide

/-- `ControlWordOfDefaultLayout`, `BuildControlWordAnswersThePacket`: least and largest values. -/
theorem witness_fits_default :
    (CtrlFields.mk 0 0 0 0 0 0 0).Fits .standard ∧ (CtrlFields.mk 3 1 1 1 1 3 7).Fits State.reset.cfg.layout := by decide

/-- `SetOutputRoundTrip`: both ends of the range. -/
theorem witness_value_range :
    ((-32768 : Int) ≤ -32768 ∧ (-32768 : Int) ≤ 32767) ∧ ((-32768 : Int) ≤ 32767 ∧ (32767 : Int) ≤ 32767) := by decide

/-- `OpenAppliesModeThenSelects`, `CloseDeselectsThenReleasesMode`, `TransferSendsThreeBytes`,
`SendControlRegisterSendsTheControlWord`, `SoftResetSendsTheResetWord`, `SetOutputSendsTheValue`, `WirePacketsAreSent`,
`BitLevelShiftRefinesTransfer`, `DeviceTeardownResetsTheDac`: each clause. -/
theorem witness_transaction :
    (State.reset.devLive = true ∧ State.reset.txnOpen = false) ∧ (opened.devLive = true ∧ opened.txnOpen = true) := by
  decide

/-- `WirePacketsAreSent`: the fields of the clauses about `WRCTRL`. -/
theorem witness_wire_fields : (CtrlFields.mk 2 1 0 1 0 1 3).Fits opened.cfg.layout := by decide

/-- `EchoingBusReturnsThePacket`. -/
theorem witness_echo :
    let s := { opened with busIn := ⟨[0xAB, 0xCD, 0xEF, 0x55], 0⟩ }
    s.devLive = true ∧ s.txnOpen = true ∧
    s.busIn.script = (toBytes 0xABCDEF).1 :: (toBytes 0xABCDEF).2.1 :: (toBytes 0xABCDEF).2.2 :: [0x55] := by decide

/-- `RegisterAppendsAModule`: the first and the last free position, a full registry, a wrong position. -/
theorem witness_register :
    (State.reset.lifecycle = .uninitialized ∧ State.reset.count ≠ State.reset.cfg.cap ∧ State.reset.count = 0) ∧
    ((registered 5).lifecycle = .uninitialized ∧ (registered 5).count ≠ (registered 5).cfg.cap ∧
      (registered 5).count = 5 ∧ 4 ≠ (registered 5).count) ∧
    ((registered 6).lifecycle = .uninitialized ∧ (registered 6).count = (registered 6).cfg.cap) := by decide

/-- `InitializeBringsTheBoardUp`, `InitializeOrdersDacBeforeAmps`: no module, and all six. -/
theorem witness_initialize : ∀ n ∈ [0, 6],
    (registered n).devLive = true ∧ (registered n).lifecycle = .uninitialized ∧ (registered n).txnOpen = false ∧
    (registered n).count ≤ (registered n).amp.length ∧ (registered n).led.length = (registered n).count := by decide

/-- `InitializeBringsTheBoardUp`, the clause of a transaction left open. -/
theorem witness_initialize_open :
    opened.devLive = true ∧ opened.lifecycle = .uninitialized ∧ opened.txnOpen = true := by decide

/-- `StepControlCycleSendsAllOutputs`, `OneTransactionPerBatch`, `SetOutputsSendsTheValues`: no module and all six, the
list empty and as long as the registry. -/
theorem witness_ready : ∀ n ∈ [0, 6],
    (ready n).devLive = true ∧ (ready n).lifecycle = .ready ∧ (ready n).txnOpen = false ∧
    (ready n).out.length = (ready n).count ∧ (ready n).pos.length = (ready n).count ∧
    (List.replicate n (5 : Value16)).length ≤ (ready n).count ∧ ([] : List Value16).length ≤ (ready n).count := by decide

/-- `StepControlCycleSendsAllOutputs`, `SetOutputsSendsTheValues`: with a transaction open, and with a list one too
long. -/
theorem witness_ready_open :
    let s := { ready 3 with txnOpen := true }
    s.devLive = true ∧ s.lifecycle = .ready ∧ s.txnOpen = true ∧ s.out.length = s.count ∧ s.pos.length = s.count ∧
    [(1 : Value16), 2, 3].length ≤ s.count ∧ s.count < [(1 : Value16), 2, 3, 4].length := by decide

/-- `RegistryTeardownDisablesAmpsThenDevice`, `DisableAllAmpsWritesAllPositions`: device live and device gone. -/
theorem witness_teardown :
    ((ready 3).lifecycle ≠ .shutdown ∧ (ready 3).amp.length = (ready 3).cfg.cap ∧ (ready 3).devLive = true) ∧
    (gone.lifecycle ≠ .shutdown ∧ gone.amp.length = gone.cfg.cap ∧ gone.devLive = false) := by decide

theorem ready_inv : (ready 3).Inv where
  config := witness_default_wf
  countLeCap := by decide
  selIsOpen := by decide
  modeIsOpen := by decide
  outEntries := by decide
  posEntries := by decide
  ledEntries := by decide
  ampEntries := by decide
  btnEntries := by decide
  imageIsDefault := rfl
  wordIsBuilt := by decide
  shutdownSafe := by decide
  goneIsClosed := by decide
  beforeReady := by decide

/-- Device teardown done, its events recorded, with a call of one byte at the host port. -/
def tornDown (selector : Byte) : State :=
  { gone with
    trace := [.modeApplied, .exchange 0 1, .selectAsserted, .exchange 0xF0 2, .exchange 0 3, .exchange 0 4,
      .selectDeasserted, .modeReleased]
    hostPort := [selector] }

theorem tornDown_inv (selector : Byte) : (tornDown selector).Inv where
  config := witness_default_wf
  countLeCap := Nat.zero_le _
  selIsOpen := rfl
  modeIsOpen := rfl
  outEntries := rfl
  posEntries := rfl
  ledEntries := rfl
  ampEntries := rfl
  btnEntries := rfl
  imageIsDefault := rfl
  wordIsBuilt := rfl
  shutdownSafe h := by cases h
  goneIsClosed _ := rfl
  beforeReady _ := by simp [tornDown, gone, State.reset, State.resetWith]

theorem tornDown_reset (selector : Byte) : (tornDown selector).GoneIsReset := fun _ =>
  show (packets (tornDown 0).trace).getLast? = some (resetWord State.reset.cfg) by decide

/-- `RegistryTeardownEndsSafely`: with the device live, and torn down before. -/
theorem witness_endsSafely :
    ((ready 3).Inv ∧ (ready 3).GoneIsReset ∧ (ready 3).lifecycle ≠ .shutdown ∧ (ready 3).devLive = true) ∧
    ((tornDown 0x19).Inv ∧ (tornDown 0x19).GoneIsReset ∧ (tornDown 0x19).lifecycle ≠ .shutdown ∧
      (tornDown 0x19).devLive = false) :=
  ⟨⟨ready_inv, by decide, by decide, by decide⟩, tornDown_inv _, tornDown_reset _, by decide, rfl⟩

/-- Reset, with one call of one byte at the host port. -/
def calling (selector : Byte) : State := { State.reset with hostPort := [selector] }

/-- `ControlImageIsConstant`, `HistoryOnlyGrows`: a step that opens a transaction. -/
theorem witness_step : ∃ t, step (calling 0x08) = .next t ∧ t.txnOpen = true := ⟨_, rfl, rfl⟩

theorem calling_inv (selector : Byte) : (calling selector).Inv where
  config := witness_default_wf
  countLeCap := Nat.zero_le _
  selIsOpen := rfl
  modeIsOpen := rfl
  outEntries := rfl
  posEntries := rfl
  ledEntries := rfl
  ampEntries := rfl
  btnEntries := rfl
  imageIsDefault := rfl
  wordIsBuilt := rfl
  shutdownSafe h := by cases h
  goneIsClosed _ := rfl
  beforeReady _ := by simp [calling, State.reset, State.resetWith]

/-- `StepKeepsInvariants`. -/
theorem witness_keeps_inv : (calling 0x08).Inv ∧ ∃ t, step (calling 0x08) = .next t := ⟨calling_inv _, _, rfl⟩

/-- `StepKeepsGoneIsReset`: a step by which the device goes, and one after it is gone. -/
theorem witness_keeps_goneIsReset :
    ((calling 0x07).GoneIsReset ∧ ∃ t, step (calling 0x07) = .next t ∧ t.devLive = false) ∧
    ((tornDown 0x15).GoneIsReset ∧ ∃ t, step (tornDown 0x15) = .next t ∧ t.devLive = false) :=
  ⟨⟨(fun h => by cases h), _, rfl, rfl⟩, tornDown_reset _, _, rfl, rfl⟩

/-- `StepKeepsLinesRecorded`: nothing written yet, and all amp lines written by the step. -/
theorem witness_keeps_lines :
    (calling 0x15).Inv ∧ (calling 0x15).LinesRecorded ∧ ∃ t, step (calling 0x15) = .next t :=
  ⟨calling_inv _,
    { ledBeforeReady := fun _ _ => rfl
      amp := fun _ _ h => by cases h
      led := fun _ _ h => by cases h
      sel := Or.inl ⟨rfl, rfl⟩ },
    _, rfl⟩

/-- A transaction open after one packet, with `close()` at the host port. -/
def closing : State :=
  { opened with
    trace := [.modeApplied, .exchange 0 7, .selectAsserted, .exchange 1 2, .exchange 3 4, .exchange 5 6]
    hostPort := [0x09] }

/-- `StepKeepsBusBracketed`: outside a transaction, and between two packets of an open one. -/
theorem witness_keeps_bracketed :
    ((calling 0x08).BusBracketed ∧ ∃ t, step (calling 0x08) = .next t) ∧
    (closing.BusBracketed ∧ ∃ t, step closing = .next t) :=
  ⟨⟨by decide, _, rfl⟩, by decide, _, rfl⟩

/-- The events of `initialize` at no module, and one amp after them. -/
def broughtUp : List Event :=
  [.modeApplied, .exchange 0 9, .selectAsserted, .selectDeasserted, .modeReleased, .modeApplied, .exchange 0 8,
    .selectAsserted, .selectDeasserted, .modeReleased, .modeApplied, .exchange 0 7, .selectAsserted,
    .selectDeasserted, .modeReleased]

/-- `Ready` with no module, brought up, with `enableAllAmps()` at the host port. -/
def enabling : State := { ready 0 with trace := broughtUp, hostPort := [0x14] }

/-- `StepKeepsDacBeforeAmps`: after `initialize`, and before it. -/
theorem witness_keeps_dacBeforeAmps :
    (enabling.DacBeforeAmps ∧ ∃ t, step enabling = .next t) ∧
    ((calling 0x10).DacBeforeAmps ∧ ∃ t, step (calling 0x10) = .next t) := by
  refine ⟨⟨⟨fun h => by simp [enabling, ready] at h, fun earlier later i h => ?_,
    fun _ => ⟨[], broughtUp, [], by decide, by decide⟩⟩, _, rfl⟩, ⟨⟨fun _ i => ?_, fun earlier later i h => ?_,
    fun h => by cases h⟩, _, rfl⟩⟩
  · have hm : Event.amp i true ∈ broughtUp :=
      (show broughtUp = earlier ++ Event.amp i true :: later from h) ▸ List.mem_append_right _ List.mem_cons_self
    simp [broughtUp] at hm
  · simp [calling, State.reset, State.resetWith]
  · simp [calling, State.reset, State.resetWith] at h

/-- `EnableAllAmpsWritesRegisteredPositions`: no module and all six. -/
theorem witness_enable : ∀ n ∈ [0, 6], (ready n).lifecycle = .ready ∧ (ready n).count ≤ (ready n).amp.length := by decide

/-- `SetLedIsBoundsChecked`: the last position, and the first that is none. -/
theorem witness_led :
    (ready 3).lifecycle = .ready ∧ 0 < (ready 3).count ∧ 2 < (ready 3).count ∧ (ready 3).count ≤ 3 := by decide

/-- `ReadButtonsLatchesThresholds`, `IsPressedAnswersTheLatch`: the last button. -/
theorem witness_buttons :
    (ready 3).lifecycle = .ready ∧ (ready 3).btn.length = (ready 3).cfg.nbtn ∧ 1 < (ready 3).cfg.nbtn ∧
    (ready 3).btn[1]? = some false := by decide

/-- `RefusedExactlyWhenNotAdmitted`: admitted, not admitted, and an operand that cannot be written down. -/
theorem witness_admitted :
    (admitted (.isPressed 1) (ready 3) && operandsGiven (.isPressed 1) (ready 3)) = true ∧
    (admitted .openTransaction gone && operandsGiven .openTransaction gone) = false ∧
    (admitted (.isPressed 2) (ready 3) && operandsGiven (.isPressed 2) (ready 3)) = false := by decide

/-- `RefusalsNameTheAdmissionRow`: both clauses. -/
theorem witness_refusals :
    (needsDevice .openTransaction = true ∧ gone.devLive = false) ∧
    ((needsDevice .readButtons = false ∨ State.reset.devLive = true) ∧
      admittedIn .readButtons State.reset.lifecycle = false) := by decide

/-- The rules about a next state (`EveryCallReturnsOneReply`, `WhoRaisesCapacityAndRangeErrors`,
`WhoRaisesPreconditionViolation`, `LifecycleTransitions`, `DeviceIsNeverRevived`, `WritersOfTheRegistry`,
`PositionsAreNeverRead`): a call that answers one. -/
theorem witness_next : ∃ t, exec (.setLed 2 false) (ready 3) = .next t := ⟨_, rfl⟩

/-- `DeviceIsNeverRevived`: a call that answers a next state after the device is gone, and one by which it goes. -/
theorem witness_device :
    (gone.devLive = false ∧ ∃ t, exec .disableAllAmps gone = .next t) ∧
    ∃ t, exec .deviceTeardown State.reset = .next t ∧ t.devLive ≠ State.reset.devLive :=
  ⟨⟨rfl, _, rfl⟩, _, rfl, by decide⟩

/-- `ErrorsLeaveTheStateUnchanged`. -/
theorem witness_error :
    ∃ t, exec (.setLed 3 true) (ready 3) = .next t ∧ t.replies = (ready 3).replies ++ [.error .outOfRange] := ⟨_, rfl, rfl⟩

/-- `ScopedRelease`: a success and an error. -/
theorem witness_scoped :
    (∃ t, exec (.setOutputs []) (ready 0) = .next t ∧ ∃ v, t.replies = (ready 0).replies ++ [.ok v]) ∧
    ∃ t, exec (.setOutputs []) { ready 0 with txnOpen := true } = .next t ∧
      ∃ e, t.replies = (ready 0).replies ++ [.error e] :=
  ⟨⟨_, rfl, _, rfl⟩, ⟨_, rfl, _, rfl⟩⟩

/-- `BehaviourIndependentOfEcho`: two states that differ in what the bus peer answered and will answer. -/
theorem witness_echo_apart :
    let a := { opened with trace := [.exchange 0 1], replies := [.ok (.echo 5)], busIn := ⟨[1, 2, 3], 0⟩ }
    let b := { opened with trace := [.exchange 0 2], replies := [.ok (.echo 6)], shiftRx := 9, busIn := ⟨[], 4⟩ }
    a.withoutEcho = b.withoutEcho ∧ a ≠ b := by decide

/-- `StepRunsTheDecodedCall`: a call, no byte, and bytes that are none. -/
theorem witness_port :
    decode ({ State.reset with hostPort := [0x08, 0x09] } : State).hostPort = .ok .openTransaction [0x09] ∧
    State.reset.hostPort = [] ∧
    (([0x0A] : List Byte) ≠ [] ∧ decode [0x0A] = .error (.unknownSelector 0x0A)) := by decide

/-- `PlacedWordRunsNext`. -/
theorem witness_word : decodeTableWord 24 0x40054B = some (.wrctrl ⟨2, 1, 0, 1, 0, 1, 3⟩) := by decide

/-- `DecodeOfEncode`, `EncodeOfDecode`: the widest operands. -/
theorem witness_encode :
    WellFormed (.setLed 4294967295 true) ∧
    decode [0x16, 0xFF, 0xFF, 0xFF, 0xFF, 1, 0x08] = .ok (.setLed 4294967295 true) [0x08] := by decide

end Sys2Proof.Tests
end

namespace Sys2Proof.Machine

/-! ## What was last written to a line

`ampLine`, `ledLine` and `selectLine` of Machine/Trace.lean, of traces end to end. -/

/-- The event writes an amp-enable or an LED line. -/
def Event.isLine : Event → Bool
  | .amp _ _ | .led _ _ => true
  | _ => false

/-- What the event writes to the amp-enable line of position `i`. -/
def Event.ampWritten (i : Nat) : Event → Option Bool
  | .amp k b => if k = i then some b else none
  | _ => none

/-- What the event writes to the LED line of position `i`. -/
def Event.ledWritten (i : Nat) : Event → Option Bool
  | .led k b => if k = i then some b else none
  | _ => none

/-- What the event writes to the select line. -/
def Event.selectWritten : Event → Option Bool
  | .selectAsserted => some true
  | .selectDeasserted => some false
  | _ => none

/-- A fold that keeps what the latest writing event wrote is the last of all values written. -/
theorem foldl_eq_getLast?_filterMap {f : Event → Option Bool} {step : Option Bool → Event → Option Bool}
    (h : ∀ last e, step last e = (f e).or last) (t : List Event) :
    t.foldl step none = (t.filterMap f).getLast? := by
  induction t using List.reverseRecOn with
  | nil => rfl
  | append_singleton t e ih =>
    rw [List.foldl_append, List.foldl_cons, List.foldl_nil, ih, h, List.filterMap_append, List.getLast?_append]
    cases hf : f e <;> simp [hf]

theorem ampLine_eq (i : Nat) (t : List Event) : ampLine i t = (t.filterMap (Event.ampWritten i)).getLast? := by
  refine foldl_eq_getLast?_filterMap (fun last e => ?_) t
  cases e with
  | amp k b => simp only [Event.ampWritten]; split <;> rfl
  | _ => rfl

theorem ledLine_eq (i : Nat) (t : List Event) : ledLine i t = (t.filterMap (Event.ledWritten i)).getLast? := by
  refine foldl_eq_getLast?_filterMap (fun last e => ?_) t
  cases e with
  | led k b => simp only [Event.ledWritten]; split <;> rfl
  | _ => rfl

theorem selectLine_eq (t : List Event) : selectLine t = (t.filterMap Event.selectWritten).getLast? :=
  foldl_eq_getLast?_filterMap (fun last e => by cases e <;> rfl) t

@[simp] theorem ampLine_amp (j k : Nat) (b : Bool) : ampLine j [.amp k b] = if k = j then some b else none := rfl
@[simp] theorem ledLine_amp (j k : Nat) (b : Bool) : ledLine j [.amp k b] = none := rfl
@[simp] theorem selectLine_amp (k : Nat) (b : Bool) : selectLine [.amp k b] = none := rfl
@[simp] theorem ampLine_led (j k : Nat) (b : Bool) : ampLine j [.led k b] = none := rfl
@[simp] theorem ledLine_led (j k : Nat) (b : Bool) : ledLine j [.led k b] = if k = j then some b else none := rfl
@[simp] theorem selectLine_led (k : Nat) (b : Bool) : selectLine [.led k b] = none := rfl

@[simp] theorem ampLine_append (i : Nat) (t u : List Event) :
    ampLine i (t ++ u) = (ampLine i u).or (ampLine i t) := by
  simp [ampLine_eq]

@[simp] theorem ledLine_append (i : Nat) (t u : List Event) :
    ledLine i (t ++ u) = (ledLine i u).or (ledLine i t) := by
  simp [ledLine_eq]

@[simp] theorem selectLine_append (t u : List Event) : selectLine (t ++ u) = (selectLine u).or (selectLine t) := by
  simp [selectLine_eq]

theorem Event.ampWritten_of_not_line {e : Event} (h : e.isLine = false) (i : Nat) : e.ampWritten i = none := by
  cases e with
  | amp k b => cases h
  | _ => rfl

theorem Event.ledWritten_of_not_line {e : Event} (h : e.isLine = false) (i : Nat) : e.ledWritten i = none := by
  cases e with
  | led k b => cases h
  | _ => rfl

/-- No amp line is written by events of which none is a line write. -/
theorem ampLine_noLine {t : List Event} (h : ∀ e ∈ t, e.isLine = false) (i : Nat) : ampLine i t = none := by
  rw [ampLine_eq, List.filterMap_eq_nil_iff.2 fun e he => Event.ampWritten_of_not_line (h e he) i, List.getLast?_nil]

/-- No LED line is written by events of which none is a line write. -/
theorem ledLine_noLine {t : List Event} (h : ∀ e ∈ t, e.isLine = false) (i : Nat) : ledLine i t = none := by
  rw [ledLine_eq, List.filterMap_eq_nil_iff.2 fun e he => Event.ledWritten_of_not_line (h e he) i, List.getLast?_nil]

/-- The bytes received do not count. -/
theorem selectLine_sent (t : List Event) : selectLine (t.map Event.sent) = selectLine t := by
  have hs : Event.selectWritten ∘ Event.sent = Event.selectWritten := funext fun e => by cases e <;> rfl
  rw [selectLine_eq, selectLine_eq, List.filterMap_map, hs]

/-! ## Which events the shapes hold -/

/-- The events drive the select line last to `last` (`none`: not at all) and write no amp or LED line. -/
structure BusEvents (last : Option Bool) (evs : List Event) : Prop where
  noLine : ∀ e ∈ evs, e.isLine = false
  select : selectLine evs = last

@[simp] theorem Event.sent_isLine (e : Event) : e.sent.isLine = e.isLine := by cases e <;> rfl

/-- The bytes received do not count. -/
theorem BusEvents.of_sent {last : Option Bool} {evs : List Event} (h : BusEvents last (evs.map Event.sent)) :
    BusEvents last evs where
  noLine e he := Event.sent_isLine e ▸ h.noLine _ (List.mem_map_of_mem he)
  select := selectLine_sent evs ▸ h.select

/-- Events after which the last to drive the select line is in the second part. -/
theorem BusEvents.append {a b : Option Bool} {evs later : List Event} (h : BusEvents a evs)
    (hl : BusEvents b later) : BusEvents (b.or a) (evs ++ later) where
  noLine e he := (List.mem_append.1 he).elim (h.noLine e) (hl.noLine e)
  select := by rw [selectLine_append, h.select, hl.select]

/-- Events that drive no line at all. -/
theorem BusEvents.of_forall {evs : List Event} (h : ∀ e ∈ evs, e.isLine = false ∧ e.selectWritten = none) :
    BusEvents none evs where
  noLine e he := (h e he).1
  select := by rw [selectLine_eq, List.filterMap_eq_nil_iff.2 fun e he => (h e he).2, List.getLast?_nil]

theorem busEvents_exchanges (b0 b1 b2 r0 r1 r2 : Byte) :
    BusEvents none [.exchange b0 r0, .exchange b1 r1, .exchange b2 r2] :=
  ⟨by simp [Event.isLine], rfl⟩

theorem busEvents_close : BusEvents (some false) closeShape := ⟨by simp [closeShape, Event.isLine], rfl⟩

theorem busEvents_transaction (c : Config) (ws : List Packet) : BusEvents (some false) (transactionShape c ws) := by
  have ho : BusEvents (some true) (openShape c) := ⟨by simp [openShape, Event.isLine], rfl⟩
  have hp : BusEvents none (ws.flatMap packetShape) := .of_forall fun e he => by
    obtain ⟨w, -, hw⟩ := List.mem_flatMap.1 he
    simp only [packetShape, List.mem_cons, List.not_mem_nil, or_false] at hw
    rcases hw with rfl | rfl | rfl <;> exact ⟨rfl, rfl⟩
  exact (ho.append hp).append busEvents_close

theorem busEvents_bringUp (s : State) : BusEvents (some false) (bringUpShape s) :=
  ((busEvents_transaction _ _).append (busEvents_transaction _ _)).append (busEvents_transaction _ _)

theorem busEvents_modInit (n : Nat) :
    BusEvents none ([.gpioUp, .clockUp, .busUp] ++ (List.range n).map Event.modInit) :=
  .of_forall <| by simp [Event.isLine, Event.selectWritten]

theorem busEvents_button (j : Nat) (ms : List Nat) : BusEvents none (buttonEvents j ms) := by
  induction ms generalizing j with
  | nil => exact ⟨by simp [buttonEvents], rfl⟩
  | cons m ms ih =>
    have h : BusEvents none [.button j m] := ⟨by simp [Event.isLine], rfl⟩
    exact h.append (ih (j + 1))

/-! ## Moves

Every instruction that answers a next state gets there by moves of a few kinds. What every move keeps, every
instruction keeps. The states between two moves are those of this decomposition, not of the block: `initialize`
becomes `Ready` before the amp and LED writes that come after it here. -/

/-- One part of the effect of instruction `i`. -/
inductive Move (i : Instr) : State → State → Prop
  /-- A reply to the host. -/
  | reply (s : State) (r : Reply) : Move i s { s with replies := s.replies ++ [r] }
  /-- Events that drive no line, and the answers the agents give. -/
  | events (s : State) {evs : List Event} {tx rx : BitVec 24} {bus : Draws Byte} {stepIn : Draws Value16}
      {posIn : Draws Position32} {sense : Draws Nat} (h : BusEvents none evs) :
      Move i s { s with
        shiftTx := tx
        shiftRx := rx
        busIn := bus
        stepIn := stepIn
        posIn := posIn
        senseIn := sense
        trace := s.trace ++ evs }
  /-- Bus events that end with a transaction open (`isOpen`), which needs the device, or with none open. -/
  | bus (s : State) {isOpen : Bool} {evs : List Event} {tx rx : BitVec 24} {bus : Draws Byte}
      (h : BusEvents (some isOpen) evs) (hd : isOpen = true → s.devLive = true) :
      Move i s { s with
        txnOpen := isOpen
        sel := isOpen
        modeOn := isOpen
        shiftTx := tx
        shiftRx := rx
        busIn := bus
        trace := s.trace ++ evs }
  /-- The device goes, outside a transaction (42_device_commands.md R81). -/
  | deviceGone (s : State) (hi : i = .deviceTeardown ∨ i = .registryTeardown) (ho : s.txnOpen = false) :
      Move i s { s with devLive := false }
  /-- `LIFECYCLE` changes: never back to before `Ready`, and to `Shutdown` only with the device gone and, where `AMP`
  has its `CAP` entries, every amp down (43_orchestrator.md R84, R92). -/
  | lifecycle (s : State) {l : Lifecycle}
      (early : l = .uninitialized ∨ l = .initializing → s.lifecycle = .uninitialized ∨ s.lifecycle = .initializing)
      (safe : l = .shutdown →
        s.devLive = false ∧ (s.amp.length = s.cfg.cap → ∀ b ∈ s.amp, b = false)) :
      Move i s { s with lifecycle := l }
  /-- The module record of `register` (R86). -/
  | register (s : State) (hi : ∃ position, i = .registerModule position)
      (hl : s.lifecycle = .uninitialized ∨ s.lifecycle = .initializing) (hc : s.count ≠ s.cfg.cap) :
      Move i s { s with
        out := s.out ++ [0]
        pos := s.pos ++ [0]
        led := s.led ++ [false]
        amp := s.amp.set s.count false
        count := s.count + 1 }
  /-- Cached outputs (R90, R91). -/
  | out (s : State) {out : List Value16} (hi : i = .stepControlCycle ∨ ∃ values, i = .setOutputs values)
      (hl : s.lifecycle = .ready) (hn : s.out.length = s.count → out.length = s.count) : Move i s { s with out := out }
  /-- Positions read (R90). -/
  | pos (s : State) {pos : List Position32} (hi : i = .stepControlCycle) (hn : pos.length = s.pos.length) :
      Move i s { s with pos := pos }
  /-- Button latches (44_board_io.md R99). -/
  | btn (s : State) {btn : List Bool} (hi : i = .readButtons) (hn : btn.length = s.btn.length) :
      Move i s { s with btn := btn }
  /-- A write of an amp line, up in `Ready` only (R96, R97). -/
  | amp (s : State) (k : Nat) {b : Bool}
      (hi : i = .initializeBoard ∨ i = .enableAllAmps ∨ i = .disableAllAmps ∨ i = .registryTeardown)
      (hl : b = true → s.lifecycle = .ready) : Move i s (s.ampWrite k b)
  /-- A write of an LED line in `Ready` (R98). -/
  | led (s : State) (k : Nat) {b : Bool} (hi : i = .initializeBoard ∨ ∃ position lit, i = .setLed position lit)
      (hl : s.lifecycle = .ready) : Move i s (s.ledWrite k b)

/-- Some moves of an instruction. -/
abbrev Moves (i : Instr) : State → State → Prop := Relation.ReflTransGen (Move i)

section
variable {i : Instr} {s t u : State}

/-- What every move keeps, a run of moves keeps. -/
theorem Moves.keeps {P : State → Prop} (hP : ∀ u t, Move i u t → P u → P t) (h : Moves i s t) (hs : P s) : P t := by
  induction h with
  | refl => exact hs
  | tail _ hm ih => exact hP _ _ hm ih

/-- Returning and raising are moves. -/
theorem moves_answer (s : State) (v : Value) : Moves i s (s.answer v) := .single (.reply s (.ok v))

theorem moves_raise (s : State) (e : Error) : Moves i s (s.raise e) := .single (.reply s (.error e))

/-! ### The effects of Laws/Exec.lean as moves -/

theorem Sends.moves {w : Packet} (h : Sends w s t) : Moves i s t := by
  rcases h with ⟨-, r0, r1, r2, bus, tx, rx, rfl⟩ | ⟨-, rfl⟩
  · exact .tail (.single (.events s (busEvents_exchanges ..))) (.reply _ _)
  · exact moves_raise _ _

theorem BusDone.moves {shape : List Event} (h : BusDone shape s u) (hs : BusEvents (some false) shape)
    (ho : s.txnOpen = false) : Moves i s u := by
  obtain ⟨evs, bus, tx, rx, rfl, rfl⟩ := h
  rw [ho]
  exact .single (.bus s hs.of_sent (by simp))

theorem DeviceDown.moves (h : DeviceDown s u) (hi : i = .deviceTeardown ∨ i = .registryTeardown) : Moves i s u := by
  obtain ⟨evs, bus, tx, rx, rfl, he⟩ := h
  have hs : BusEvents (some false) (evs.map Event.sent) := by
    rw [he]
    split
    · exact busEvents_close.append (busEvents_transaction _ _)
    · exact busEvents_transaction _ _
  exact .tail (.single (.bus s hs.of_sent (by simp))) (.deviceGone _ hi rfl)

theorem writeAmps_succ (n : Nat) (b : Bool) (s : State) : s.writeAmps (n + 1) b = (s.writeAmps n b).ampWrite n b := by
  simp [State.writeAmps, List.range_succ]

theorem writeLeds_succ (n : Nat) (b : Bool) (s : State) : s.writeLeds (n + 1) b = (s.writeLeds n b).ledWrite n b := by
  simp [State.writeLeds, List.range_succ]

theorem moves_writeAmps (n : Nat) {b : Bool}
    (hi : i = .initializeBoard ∨ i = .enableAllAmps ∨ i = .disableAllAmps ∨ i = .registryTeardown)
    (hl : b = true → s.lifecycle = .ready) : Moves i s (s.writeAmps n b) := by
  induction n with
  | zero => exact .refl
  | succ n ih =>
    rw [writeAmps_succ]
    exact ih.tail (.amp _ n hi (by rwa [writeAmps_spec]))

theorem moves_writeLeds (n : Nat) {b : Bool} (hi : i = .initializeBoard ∨ ∃ position lit, i = .setLed position lit)
    (hl : s.lifecycle = .ready) : Moves i s (s.writeLeds n b) := by
  induction n with
  | zero => exact .refl
  | succ n ih =>
    rw [writeLeds_succ]
    exact ih.tail (.led _ n hi (by rwa [writeLeds_spec]))

theorem moves_stepModules (hl : s.lifecycle = .ready) :
    Moves .stepControlCycle s (s.stepModules s.count) := by
  obtain ⟨out, pos, stepIn, posIn, evs, h, ho, hp, he⟩ := stepModules_frame s.count s
  have hevs : BusEvents none evs := .of_forall fun e hm => by
    obtain ⟨i, ⟨v, rfl⟩ | ⟨p, rfl⟩⟩ := he e hm <;> exact ⟨rfl, rfl⟩
  rw [h]
  exact .tail (.tail (.single (.events s hevs)) (.out _ (.inl rfl) hl (ho.trans ·))) (.pos _ rfl hp)

theorem moves_cacheOutputs {values : List Value16} (hl : s.lifecycle = .ready) (hn : values.length ≤ s.count) :
    Moves (.setOutputs values) s (cacheOutputs values s) :=
  .single (.out s (.inr ⟨_, rfl⟩) hl fun ho => by rw [List.length_append, List.length_drop]; omega)

theorem moves_pollButtons (s : State) : Moves .readButtons s (s.pollButtons 0 s.cfg.thresh).2 := by
  obtain ⟨ms, btn, sense, h, hn⟩ := pollButtons_frame s.cfg.thresh 0 s
  rw [h]
  exact .tail (.single (.events s (busEvents_button 0 ms))) (.btn _ rfl hn)

theorem moves_registerAt {position : Nat} (hl : s.lifecycle = .uninitialized ∨ s.lifecycle = .initializing)
    (hc : s.count ≠ s.cfg.cap) : Moves (.registerModule position) s (registerAt s.count s) :=
  .tail (.single (.events s ⟨by simp [Event.isLine], rfl⟩)) (.register (s.modInit s.count) ⟨_, rfl⟩ hl hc)

theorem moves_bringUp (hl : s.lifecycle = .uninitialized) : Moves .initializeBoard s (bringUp s) := by
  rw [bringUp_spec]
  exact .tail (.single (.lifecycle s (l := .initializing) (fun _ => .inl hl) (by simp)))
    (.events _ (busEvents_modInit _))

/-- Phase 8 of `initialize`, with the change of `LIFECYCLE` moved in front of the writes. -/
theorem enableBoard_eq (s : State) :
    enableBoard s = (({ s with lifecycle := .ready } : State).writeAmps s.count true).writeLeds s.count true := by
  simp [enableBoard, writeAmps_spec, writeLeds_spec]

theorem moves_enableBoard (s : State) : Moves .initializeBoard s (enableBoard s) := by
  rw [enableBoard_eq]
  exact ((Relation.ReflTransGen.single (.lifecycle s (by simp) (by simp))).trans
    (moves_writeAmps _ (.inl rfl) fun _ => rfl)).trans (moves_writeLeds _ (.inl rfl) (by simp [writeAmps_spec]))

/-- With every amp of the board's capacity written down, no entry of `AMP` is true. -/
theorem writeAmps_false_amp (h : (s.writeAmps s.cfg.cap false).amp.length = s.cfg.cap) :
    ∀ b ∈ (s.writeAmps s.cfg.cap false).amp, b = false := by
  have hn : s.amp.length = s.cfg.cap := by simpa [writeAmps_spec] using h
  rw [writeAmps_all hn]
  exact fun b hb => List.eq_of_mem_replicate hb

/-- The end of registry teardown, after all amp writes and with the device gone. -/
theorem moves_shutdown (hd : u.devLive = false) (ha : u.amp = (s.writeAmps s.cfg.cap false).amp) (hc : u.cfg = s.cfg) :
    Moves .registryTeardown u { u with lifecycle := .shutdown } :=
  .single (.lifecycle u (by simp) fun _ => ⟨hd, by rw [ha, hc]; exact writeAmps_false_amp⟩)

/-- Everything an instruction that answers a next state can have done, as moves. -/
theorem exec_moves (h : exec i s = .next t) : Moves i s t := by
  have h := exec_inv h
  cases i with
  | wrctrl f => exact h.2.moves
  | swrst => exact h.2.moves
  | wrupd v => exact h.2.moves
  | sendControlRegister => exact h.2.moves
  | softReset => exact h.2.moves
  | setOutput v => exact h.2.moves
  | buildControlWord f => obtain rfl := h; exact moves_answer _ _
  | encodeSetOutput v => obtain rfl := h; exact moves_answer _ _
  | isPressed role => obtain ⟨-, -, rfl⟩ := h; exact moves_answer _ _
  | transfer w =>
    obtain ⟨-, ⟨-, r0, r1, r2, bus, rfl⟩ | ⟨-, rfl⟩⟩ := h
    · exact .tail (.single (.events s (busEvents_exchanges ..))) (.reply _ _)
    · exact moves_raise _ _
  | deviceTeardown =>
    obtain ⟨-, u, hu, rfl⟩ := h
    exact (hu.moves (.inl rfl)).trans (moves_answer _ _)
  | openTransaction =>
    obtain ⟨hd, ⟨-, r, bus, tx, rx, rfl⟩ | ⟨-, rfl⟩⟩ := h
    · exact .tail (.single (.bus s (isOpen := true) ⟨by simp [Event.isLine], rfl⟩ fun _ => hd)) (.reply _ _)
    · exact moves_raise _ _
  | closeTransaction =>
    obtain ⟨-, ⟨-, rfl⟩ | ⟨-, rfl⟩⟩ := h
    · exact .tail (.single (.bus s busEvents_close (by simp))) (.reply _ _)
    · exact moves_raise _ _
  | initializeBoard =>
    obtain ⟨-, hl, ⟨-, rfl⟩ | ⟨ho, u, hu, rfl⟩⟩ := h
    · exact (moves_bringUp hl).trans (moves_raise _ _)
    · exact (((moves_bringUp hl).trans (hu.moves (busEvents_bringUp s) (by simp [bringUp_spec, ho]))).trans
        (moves_enableBoard u)).trans (moves_answer _ _)
  | registerModule position =>
    obtain ⟨hl, ⟨-, rfl⟩ | ⟨hc, -, rfl⟩⟩ := h
    · exact moves_raise _ _
    · exact (moves_registerAt hl hc).trans (moves_answer _ _)
  | stepControlCycle =>
    obtain ⟨-, hl, ⟨-, rfl⟩ | ⟨ho, u, hu, rfl⟩⟩ := h
    · exact (moves_stepModules hl).trans (moves_raise _ _)
    · exact ((moves_stepModules hl).trans (hu.moves (busEvents_transaction _ _) (by simp [ho]))).trans
        (moves_answer _ _)
  | setOutputs values =>
    obtain ⟨-, hl, ⟨-, rfl⟩ | ⟨hn, -, rfl⟩ | ⟨hn, ho, u, hu, rfl⟩⟩ := h
    · exact moves_raise _ _
    · exact (moves_cacheOutputs hl hn).trans (moves_raise _ _)
    · exact ((moves_cacheOutputs hl hn).trans (hu.moves (busEvents_transaction _ _) ho)).trans (moves_answer _ _)
  | enableAllAmps =>
    obtain ⟨hl, rfl⟩ := h
    exact (moves_writeAmps _ (by simp) fun _ => hl).trans (moves_answer _ _)
  | disableAllAmps =>
    obtain ⟨-, rfl⟩ := h
    exact (moves_writeAmps _ (by simp) (by simp)).trans (moves_answer _ _)
  | setLed position lit =>
    obtain ⟨hl, ⟨-, rfl⟩ | ⟨-, rfl⟩⟩ := h
    · exact moves_raise _ _
    · exact .tail (.single (.led s position (.inr ⟨_, _, rfl⟩) hl)) (.reply _ _)
  | readButtons =>
    obtain ⟨-, rfl⟩ := h
    exact (moves_pollButtons s).trans (moves_answer _ _)
  | registryTeardown =>
    have ha : Moves .registryTeardown s (s.writeAmps s.cfg.cap false) := moves_writeAmps _ (by simp) (by simp)
    obtain ⟨-, ⟨-, u, hu, rfl⟩ | ⟨hd, rfl⟩⟩ := h
    · have hdown := hu.moves (i := .registryTeardown) (.inr rfl)
      obtain ⟨evs, bus, tx, rx, rfl, -⟩ := hu
      exact ((ha.trans hdown).trans (moves_shutdown rfl rfl (by simp [writeAmps_spec]))).trans (moves_answer _ _)
    · exact (ha.trans (moves_shutdown (by simp [writeAmps_spec, hd]) rfl (by simp [writeAmps_spec]))).trans
        (moves_answer _ _)

/-- What every move of an instruction keeps, the instruction keeps. -/
theorem exec_keeps {P : State → Prop} (hP : ∀ u t, Move i u t → P u → P t) (h : exec i s = .next t) (hs : P s) : P t :=
  (exec_moves h).keeps hP hs

end

/-! ## The invariants, move by move -/

section
variable {i : Instr} {s t : State}

/-- Clearing an entry of a list without a true entry. -/
theorem mem_set_false {l : List Bool} {k : Nat} (h : ∀ b ∈ l, b = false) : ∀ b ∈ l.set k false, b = false :=
  fun b hb => (List.mem_or_eq_of_mem_set hb).elim (h b) id

/-- Every move keeps the invariants of R27 and R95. -/
theorem Move.keeps_inv (m : Move i s t) (h : s.Inv) : t.Inv := by
  cases m with
  | reply r => exact { h with }
  | events _ => exact { h with }
  | bus _ hd =>
    exact { h with
      selIsOpen := rfl
      modeIsOpen := rfl
      goneIsClosed := fun hg => Bool.eq_false_iff.2 fun ho => by simp [hd ho] at hg }
  | deviceGone _ ho =>
    exact { h with
      shutdownSafe := fun hl => ⟨rfl, (h.shutdownSafe hl).2⟩
      goneIsClosed := fun _ => ho }
  | lifecycle early safe =>
    exact { h with
      shutdownSafe := fun hl => ⟨(safe hl).1, (safe hl).2 h.ampEntries⟩
      beforeReady := fun hl => h.beforeReady (early hl) }
  | register _ hl hc =>
    obtain ⟨hamp, hled, hout⟩ := h.beforeReady hl
    exact { h with
      countLeCap := Nat.lt_of_le_of_ne h.countLeCap hc
      outEntries := by simp [h.outEntries]
      posEntries := by simp [h.posEntries]
      ledEntries := by simp [h.ledEntries]
      ampEntries := by simp [h.ampEntries]
      shutdownSafe := fun hs => by simp [show s.lifecycle = .shutdown from hs] at hl
      beforeReady := fun _ => ⟨mem_set_false hamp, by simpa using hled, by simpa [or_imp, forall_and] using hout⟩ }
  | out _ hl hn =>
    exact { h with
      outEntries := hn h.outEntries
      beforeReady := fun he => by simp [hl] at he }
  | pos _ hn => exact { h with posEntries := hn.trans h.posEntries }
  | btn _ hn => exact { h with btnEntries := hn.trans h.btnEntries }
  | @amp k b _ hl =>
    have ha : ((s.ampWrite k b).amp).length = s.cfg.cap := by simp [h.ampEntries]
    cases b with
    | false =>
      exact { h with
        ampEntries := ha
        shutdownSafe := fun hs => ⟨(h.shutdownSafe hs).1, mem_set_false (h.shutdownSafe hs).2⟩
        beforeReady := fun he => ⟨mem_set_false (h.beforeReady he).1, (h.beforeReady he).2⟩ }
    | true =>
      exact { h with
        ampEntries := ha
        shutdownSafe := fun hs => by simp [hl rfl] at hs
        beforeReady := fun he => by simp [hl rfl] at he }
  | led k _ hl =>
    exact { h with
      ledEntries := by simp [h.ledEntries]
      beforeReady := fun he => by simp [hl] at he }

/-- After bus events the lines are recorded, with `SEL` as the events left it. -/
theorem State.LinesRecorded.append {last : Option Bool} {evs : List Event} (h : s.LinesRecorded)
    (he : BusEvents last evs) :
    State.LinesRecorded { s with sel := last.getD s.sel, trace := s.trace ++ evs } where
  ledBeforeReady hl k := by simp [ledLine_noLine he.noLine, h.ledBeforeReady hl k]
  amp k b hb := h.amp k b (by simpa [ampLine_noLine he.noLine] using hb)
  led k b hb := h.led k b (by simpa [ledLine_noLine he.noLine] using hb)
  sel := by
    cases last with
    | none => simpa [he.select] using h.sel
    | some b => exact .inr (by simp [he.select])

/-- A line of position `k` and its entry written together: every entry is still the last value written to its line. -/
theorem recorded_set {line : Nat → Option Bool} {entries : List Bool} {n k : Nat} {b : Bool}
    (h : ∀ j c, line j = some c → j < n → entries[j]? = some c) (hn : entries.length = n) (j : Nat) (c : Bool)
    (hc : (if k = j then some b else none).or (line j) = some c) (hj : j < n) : (entries.set k b)[j]? = some c := by
  by_cases hk : k = j
  · subst hk
    rw [List.getElem?_set_self (hn ▸ hj)]
    simpa using hc
  · rw [List.getElem?_set_ne hk]
    exact h j c (by simpa [hk] using hc) hj

/-- An amp write is recorded where `AMP` has its `CAP` entries. -/
theorem State.LinesRecorded.ampWrite (h : s.LinesRecorded) (hn : s.amp.length = s.cfg.cap) (k : Nat) (b : Bool) :
    (s.ampWrite k b).LinesRecorded where
  ledBeforeReady hl j := by simpa using h.ledBeforeReady hl j
  amp j c hc := recorded_set h.amp hn j c (by simpa using hc)
  led j c hc := h.led j c (by simpa using hc)
  sel := by simpa using h.sel

/-- An LED write in `Ready` is recorded where `LED` has its `COUNT` entries. -/
theorem State.LinesRecorded.ledWrite (h : s.LinesRecorded) (hn : s.led.length = s.count) (hl : s.lifecycle = .ready)
    (k : Nat) (b : Bool) : (s.ledWrite k b).LinesRecorded where
  ledBeforeReady he j := by simp [hl] at he
  amp j c hc := h.amp j c (by simpa using hc)
  led j c hc := recorded_set h.led hn j c (by simpa using hc)
  sel := by simpa using h.sel

/-- Before `Ready` every entry of `AMP` is false, so the entry that `register` clears without a line write keeps its
value. -/
theorem amp_set_false_of_early (hi : s.Inv) (hl : s.lifecycle = .uninitialized ∨ s.lifecycle = .initializing)
    (k : Nat) : s.amp.set k false = s.amp := by
  obtain ⟨hamp, -⟩ := hi.beforeReady hl
  refine List.ext_getElem (by simp) fun j h1 h2 => ?_
  rw [List.getElem_set]
  split
  · exact (hamp _ (List.getElem_mem h2)).symm
  · rfl

/-- Every move from a state that meets the invariants keeps the recorded lines. -/
theorem Move.keeps_lines (m : Move i s t) (hi : s.Inv) (h : s.LinesRecorded) : t.LinesRecorded := by
  cases m with
  | reply r => exact { h with }
  | events he => exact { h.append he with }
  | bus he _ => exact { h.append he with }
  | deviceGone _ _ => exact { h with }
  | lifecycle early _ => exact { h with ledBeforeReady := fun hl => h.ledBeforeReady (early hl) }
  | register _ hl hc =>
    exact { h with
      amp := by simpa only [amp_set_false_of_early hi hl] using h.amp
      led := fun k b hb => by simp [h.ledBeforeReady hl k] at hb }
  | out _ _ _ => exact { h with }
  | pos _ _ => exact { h with }
  | btn _ _ => exact { h with }
  | amp k _ _ => exact h.ampWrite hi.ampEntries _ _
  | led k _ hl => exact h.ledWrite hi.ledEntries hl _ _

/-- What does not depend on the bytes at the host port, and what every instruction keeps, every step keeps. -/
theorem step_keeps {P : State → Prop} (port : ∀ s bytes, P s → P { s with hostPort := bytes })
    (hP : ∀ i u t, Move i u t → P u → P t) (h : step s = .next t) (hs : P s) : P t := by
  obtain ⟨-, rfl⟩ | ⟨i, rest, -, he⟩ := step_inv h
  · exact hs
  · exact exec_keeps (hP i) he (port s rest hs)

end

/-! ## What every step keeps -/

/-- Settles O50: every move keeps the invariants. -/
theorem stepKeepsInvariants : Obligations.StepKeepsInvariants := fun _ _ hi h =>
  step_keeps (fun _ _ hs => { hs with }) (fun _ _ _ m hu => m.keeps_inv hu) h hi

/-- Settles O53: every move keeps the recorded lines, together with the invariants, from which the amp entry that
`register` clears was false already. -/
theorem stepKeepsLinesRecorded : Obligations.StepKeepsLinesRecorded := fun _ _ hi hr h =>
  (step_keeps (P := fun s => s.Inv ∧ s.LinesRecorded) (fun _ _ ⟨hi, hr⟩ => ⟨{ hi with }, { hr with }⟩)
    (fun _ _ _ m ⟨hi, hr⟩ => ⟨m.keeps_inv hi, m.keeps_lines hi hr⟩) h ⟨hi, hr⟩).2

/-- Settles O43: no move writes a constant. -/
theorem controlImageIsConstant : Obligations.ControlImageIsConstant := fun s _ h =>
  step_keeps (P := fun t => t.cfg = s.cfg ∧ t.ctrlImage = s.ctrlImage ∧ t.ctrlWord = s.ctrlWord)
    (fun _ _ => id) (fun _ _ _ m hu => by cases m <;> exact hu) h ⟨rfl, rfl, rfl⟩

/-- Settles O45: a move adds to the end of the trace or the replies, or leaves them. -/
theorem historyOnlyGrows : Obligations.HistoryOnlyGrows := fun s _ h => by
  refine step_keeps (P := fun t => s.trace <+: t.trace ∧ s.replies <+: t.replies) (fun _ _ => id)
    (fun _ _ _ m ⟨ht, hr⟩ => ?_) h ⟨List.prefix_rfl, List.prefix_rfl⟩
  cases m with
  | reply r => exact ⟨ht, hr.trans (List.prefix_append _ _)⟩
  | events _ | bus _ _ | amp _ _ _ | led _ _ _ => exact ⟨ht.trans (List.prefix_append _ _), hr⟩
  | _ => exact ⟨ht, hr⟩

/-- What changes over an instruction, some move of it changed. -/
theorem exec_writer {α : Type} {field : State → α} {i : Instr} {s t : State} {Writer : Prop}
    (hw : ∀ u t, Move i u t → field t = field u ∨ Writer) (h : exec i s = .next t) :
    field t ≠ field s → Writer := fun hne =>
  (exec_keeps (P := fun t => field t = field s ∨ Writer)
    (fun u t m hu => (hw u t m).elim (fun he => hu.imp_left he.trans) .inr) h (.inl rfl)).resolve_left hne

/-- Settles O44: the one move that writes `DEV_LIVE` writes it false, in a teardown. -/
theorem deviceIsNeverRevived : Obligations.DeviceIsNeverRevived := by
  refine fun i s t h => ⟨exec_keeps (P := fun t => t.devLive = false) (fun u t m hu => ?_) h,
    exec_writer (fun u t m => ?_) h⟩
  · cases m with
    | deviceGone _ _ => rfl
    | _ => exact hu
  · cases m with
    | deviceGone hi _ => exact .inr hi
    | _ => exact .inl rfl

/-- Settles O46: for each element of the registry, the moves that write it and the instructions that make them. -/
theorem writersOfTheRegistry : Obligations.WritersOfTheRegistry := by
  refine fun i s t h => ⟨exec_keeps (P := fun t => s.count ≤ t.count) (fun u t m hu => ?countGrows) h le_rfl,
    exec_writer (fun u t m => ?count) h, exec_writer (fun u t m => ?out) h, exec_writer (fun u t m => ?pos) h,
    exec_writer (fun u t m => ?led) h, exec_writer (fun u t m => ?amp) h, exec_writer (fun u t m => ?btn) h⟩
  case countGrows =>
    cases m with
    | register _ _ _ => exact Nat.le_succ_of_le hu
    | _ => exact hu
  case count =>
    cases m with
    | register hi _ _ => exact .inr hi
    | _ => exact .inl rfl
  case out =>
    cases m with
    | register hi _ _ => exact .inr (.inl hi)
    | out hi _ _ => exact .inr (.inr hi)
    | _ => exact .inl rfl
  case pos =>
    cases m with
    | register hi _ _ => exact .inr (.inl hi)
    | pos hi _ => exact .inr (.inr hi)
    | _ => exact .inl rfl
  case led =>
    cases m with
    | register hi _ _ => exact .inr (.inl hi)
    | led _ hi _ => exact .inr (.inr hi)
    | _ => exact .inl rfl
  case amp =>
    cases m with
    | register hi _ _ => exact .inr (.inl hi)
    | amp _ hi _ => exact .inr (.inr hi)
    | _ => exact .inl rfl
  case btn =>
    cases m with
    | btn hi _ => exact .inr hi
    | _ => exact .inl rfl

/-! ## Reset -/

/-- Settles O1: `resetWith` read field by field. -/
theorem resetLeavesTheStatedValues : Obligations.ResetLeavesTheStatedValues := fun _ =>
  ⟨rfl, rfl, rfl, rfl, rfl, rfl, rfl, rfl, rfl, rfl, rfl, rfl, List.length_replicate,
    fun _ => List.eq_of_mem_replicate, List.length_replicate, fun _ => List.eq_of_mem_replicate, rfl⟩

/-- Settles O2: the control word of the default fields, computed. -/
theorem defaultControlWordAtReset : Obligations.DefaultControlWordAtReset := ⟨rfl, by decide⟩

/-- The invariants of R27 and R95 at reset. -/
theorem resetWith_inv {c : Config} (h : c.Wf) : (State.resetWith c).Inv where
  config := h
  countLeCap := Nat.zero_le _
  selIsOpen := rfl
  modeIsOpen := rfl
  outEntries := rfl
  posEntries := rfl
  ledEntries := rfl
  ampEntries := List.length_replicate
  btnEntries := List.length_replicate
  imageIsDefault := rfl
  wordIsBuilt := rfl
  shutdownSafe h := by cases h
  goneIsClosed _ := rfl
  beforeReady _ := ⟨fun _ => List.eq_of_mem_replicate, by simp [State.resetWith], by simp [State.resetWith]⟩

/-- With no event yet, no amp was enabled. -/
theorem resetWith_dacBeforeAmps (c : Config) : (State.resetWith c).DacBeforeAmps where
  noneBeforeReady _ _ := List.not_mem_nil
  afterBringUp earlier _ _ h := by simp [State.resetWith] at h
  readyBroughtUp h := by cases h

/-- With no event yet, no line was written. -/
theorem resetWith_linesRecorded (c : Config) : (State.resetWith c).LinesRecorded where
  ledBeforeReady _ _ := rfl
  amp _ _ h := by cases h
  led _ _ h := by cases h
  sel := .inl ⟨rfl, rfl⟩

/-- Settles O3: each invariant at reset. -/
theorem resetMeetsInvariants : Obligations.ResetMeetsInvariants := fun c h =>
  ⟨resetWith_inv h, rfl, resetWith_dacBeforeAmps c, resetWith_linesRecorded c⟩

/-! ## The host port -/

theorem fetch_of_decode_ok {s : State} {i : Instr} {rest : List Byte} (h : decode s.hostPort = .ok i rest) :
    fetch s = .call i { s with hostPort := rest } := by
  unfold fetch
  cases hp : s.hostPort with
  | nil => rw [hp] at h; cases h
  | cons b bs => rw [hp] at h; simp only [h]

theorem fetch_of_decode_error {s : State} {e : DecodeError} (hp : s.hostPort ≠ []) (h : decode s.hostPort = .error e) :
    fetch s = .bad e := by
  unfold fetch
  cases hp' : s.hostPort with
  | nil => exact absurd hp' hp
  | cons b bs => rw [hp'] at h; simp only [h]

theorem fetch_of_no_byte {s : State} (h : s.hostPort = []) : fetch s = .idle := by
  simp only [fetch, h]

/-- Settles O54: a step by what stands at the host port. -/
theorem stepRunsTheDecodedCall : Obligations.StepRunsTheDecodedCall :=
  ⟨fun s i rest h => by rw [step, fetch_of_decode_ok h], fun s h => by rw [step, fetch_of_no_byte h],
    fun s e hp h => by rw [step, fetch_of_decode_error hp h]⟩

/-! ## Positions are not read

Every operation commutes with replacing the positions. -/

/-- The state with other positions. -/
abbrev State.withPos (q : List Position32) (s : State) : State := { s with pos := q }

/-- The same for a running operation. -/
def Run.withPos {α : Type} (q : List Position32) : Run α → Run α
  | .ok v s => .ok v (s.withPos q)
  | .raised e s => .raised e (s.withPos q)

/-- The same for an outcome. -/
def outcomeWithPos (q : List Position32) : Host.Outcome State Fault Refusal → Host.Outcome State Fault Refusal
  | .next s => .next (s.withPos q)
  | .fault r => .fault r
  | .refused r => .refused r

/-- A function of a choice, from its values on the two alternatives. -/
theorem ite_eq_apply_ite {α β : Type} {f : α → β} {c : Prop} [Decidable c] {a b : α} {fa fb : β} (ha : fa = f a)
    (hb : fb = f b) : (if c then fa else fb) = f (if c then a else b) := by
  rw [ha, hb, apply_ite f]

theorem Run.andThen_withPos {α β : Type} {q : List Position32} {r r' : Run α} {f : α → State → Run β}
    (hr : r' = r.withPos q) (hf : ∀ v s, f v (s.withPos q) = (f v s).withPos q) :
    r'.andThen f = (r.andThen f).withPos q := by
  subst hr
  cases r with
  | ok v s => exact hf v s
  | raised e s => rfl

theorem Run.finish_withPos {q : List Position32} {r r' : Run Value} (hr : r' = r.withPos q) :
    r'.finish = outcomeWithPos q r.finish := by
  subst hr
  cases r <;> rfl

section
variable (p q : List Position32) (s : State)

theorem openBus_withPos : openBus (s.withPos q) = (openBus s).withPos q := ite_eq_apply_ite rfl rfl

theorem closeBus_withPos : closeBus (s.withPos q) = (closeBus s).withPos q := ite_eq_apply_ite rfl rfl

theorem transferPacket_withPos (w : Packet) : transferPacket w (s.withPos q) = (transferPacket w s).withPos q :=
  ite_eq_apply_ite rfl rfl

theorem sendOnly_withPos (w : Packet) : sendOnly w (s.withPos q) = (sendOnly w s).withPos q :=
  Run.andThen_withPos (transferPacket_withPos q s w) fun _ _ => rfl

theorem sendAll_withPos (ws : List Packet) : sendAll ws (s.withPos q) = (sendAll ws s).withPos q := by
  induction ws generalizing s with
  | nil => rfl
  | cons w ws ih => exact Run.andThen_withPos (sendOnly_withPos q s w) fun _ s => ih s

theorem transaction_withPos (ws : List Packet) : transaction ws (s.withPos q) = (transaction ws s).withPos q :=
  Run.andThen_withPos (openBus_withPos q s) fun _ s =>
    Run.andThen_withPos (sendAll_withPos q s ws) fun _ s => closeBus_withPos q s

theorem teardownDevice_withPos : teardownDevice (s.withPos q) = (teardownDevice s).withPos q :=
  Run.andThen_withPos (ite_eq_apply_ite (closeBus_withPos q s) rfl) fun _ s =>
    Run.andThen_withPos (transaction_withPos q s _) fun _ _ => rfl

theorem bringUpDac_withPos : bringUpDac (s.withPos q) = (bringUpDac s).withPos q :=
  Run.andThen_withPos (transaction_withPos q s _) fun _ s =>
    Run.andThen_withPos (transaction_withPos q s _) fun _ s => transaction_withPos q s _

theorem writeAmps_withPos (n : Nat) (b : Bool) : (s.withPos q).writeAmps n b = (s.writeAmps n b).withPos q := by
  simp only [writeAmps_spec]

theorem bringUp_withPos : bringUp (s.withPos q) = (bringUp s).withPos q := by
  simp only [bringUp_spec]

theorem enableBoard_withPos : enableBoard (s.withPos q) = (enableBoard s).withPos q := by
  simp only [enableBoard, writeAmps_spec, writeLeds_spec]

theorem pollButtons_withPos (j : Nat) (thresholds : List Nat) :
    (s.withPos q).pollButtons j thresholds =
      ((s.pollButtons j thresholds).1, (s.pollButtons j thresholds).2.withPos q) := by
  induction thresholds generalizing j s with
  | nil => rfl
  | cons t rest ih =>
    have h := ih { (s.senseButton j).2 with btn := s.btn.set j (decide ((s.senseButton j).1 > t)) } (j + 1)
    exact congrArg (fun later => ((s.senseButton j).1 :: later.1, later.2)) h

theorem stepModules_succ (n : Nat) : s.stepModules (n + 1) = (s.stepModules n).stepModule n := by
  simp [State.stepModules, List.range_succ]

/-- The module loop overwrites positions and reads none. -/
theorem stepModules_withPos (n : Nat) : ∃ q, (s.withPos p).stepModules n = (s.stepModules n).withPos q := by
  induction n with
  | zero => exact ⟨p, rfl⟩
  | succ n ih =>
    obtain ⟨q, h⟩ := ih
    exact ⟨_, by rw [stepModules_succ, stepModules_succ, h]; rfl⟩

theorem needDevice_withPos {run run' : Host.Outcome State Fault Refusal} (h : run' = outcomeWithPos q run) :
    needDevice (s.withPos p) run' = outcomeWithPos q (needDevice s run) := ite_eq_apply_ite h rfl

theorem needLifecycle_withPos (ls : List Lifecycle) {run run' : Host.Outcome State Fault Refusal}
    (h : run' = outcomeWithPos q run) :
    needLifecycle ls (s.withPos p) run' = outcomeWithPos q (needLifecycle ls s run) := ite_eq_apply_ite h rfl

/-- A call that needs the device and answers the value of a running operation. -/
theorem deviceCall_withPos {α : Type} (answer : α → Value) {r r' : Run α} (hr : r' = r.withPos q) :
    needDevice (s.withPos q) (r'.andThen fun v s => .ok (answer v) s).finish =
      outcomeWithPos q (needDevice s (r.andThen fun v s => .ok (answer v) s).finish) :=
  needDevice_withPos q q s (Run.finish_withPos (Run.andThen_withPos hr fun _ _ => rfl))

/-- Whatever the positions, an instruction has the same outcome but for the positions. -/
theorem exec_withPos (i : Instr) : ∃ q, exec i (s.withPos p) = outcomeWithPos q (exec i s) := by
  cases i with
  | wrctrl f =>
    exact ⟨p, needDevice_withPos p p s (ite_eq_apply_ite (Run.finish_withPos
      (Run.andThen_withPos (sendOnly_withPos p s _) fun _ _ => rfl)) rfl)⟩
  | swrst => exact ⟨p, deviceCall_withPos p s (fun _ => .none) (sendOnly_withPos p s _)⟩
  | wrupd v => exact ⟨p, deviceCall_withPos p s (fun _ => .none) (sendOnly_withPos p s _)⟩
  | sendControlRegister => exact ⟨p, deviceCall_withPos p s (fun _ => .none) (sendOnly_withPos p s _)⟩
  | softReset => exact ⟨p, deviceCall_withPos p s (fun _ => .none) (sendOnly_withPos p s _)⟩
  | setOutput v => exact ⟨p, deviceCall_withPos p s (fun _ => .none) (sendOnly_withPos p s _)⟩
  | buildControlWord f => exact ⟨p, ite_eq_apply_ite rfl rfl⟩
  | encodeSetOutput v => exact ⟨p, rfl⟩
  | transfer w => exact ⟨p, deviceCall_withPos p s .echo (transferPacket_withPos p s w)⟩
  | deviceTeardown => exact ⟨p, deviceCall_withPos p s (fun _ => .none) (teardownDevice_withPos p s)⟩
  | openTransaction => exact ⟨p, deviceCall_withPos p s (fun _ => .none) (openBus_withPos p s)⟩
  | closeTransaction => exact ⟨p, deviceCall_withPos p s (fun _ => .none) (closeBus_withPos p s)⟩
  | initializeBoard =>
    have hb : bringUpDac (bringUp (s.withPos p)) = (bringUpDac (bringUp s)).withPos p := by
      rw [bringUp_withPos, bringUpDac_withPos]
    exact ⟨p, needDevice_withPos p p s (needLifecycle_withPos p p s _ (Run.finish_withPos
      (Run.andThen_withPos hb fun _ u => congrArg (Run.ok _) (enableBoard_withPos p u))))⟩
  | registerModule position =>
    by_cases hc : s.count = s.cfg.cap
    · exact ⟨p, needLifecycle_withPos p p s _ (by rw [if_pos hc, if_pos hc]; rfl)⟩
    · exact ⟨p ++ [0], needLifecycle_withPos p _ s _ (by
        rw [if_neg hc, if_neg hc]; exact ite_eq_apply_ite rfl rfl)⟩
  | stepControlCycle =>
    obtain ⟨q, hq⟩ := stepModules_withPos p s s.count
    refine ⟨q, needDevice_withPos p q s (needLifecycle_withPos p q s _ (Run.finish_withPos
      (Run.andThen_withPos ?_ fun _ _ => rfl)))⟩
    rw [hq]
    exact transaction_withPos q _ _
  | setOutputs values =>
    exact ⟨p, needDevice_withPos p p s (needLifecycle_withPos p p s _ (ite_eq_apply_ite rfl (Run.finish_withPos
      (Run.andThen_withPos (transaction_withPos p (cacheOutputs values s) _) fun _ _ => rfl))))⟩
  | enableAllAmps =>
    exact ⟨p, needLifecycle_withPos p p s _ (Run.finish_withPos (congrArg (Run.ok _) (writeAmps_withPos p s _ _)))⟩
  | disableAllAmps =>
    exact ⟨p, needLifecycle_withPos p p s _ (Run.finish_withPos (congrArg (Run.ok _) (writeAmps_withPos p s _ _)))⟩
  | setLed position lit => exact ⟨p, needLifecycle_withPos p p s _ (ite_eq_apply_ite rfl rfl)⟩
  | readButtons =>
    refine ⟨p, needLifecycle_withPos p p s _ ?_⟩
    rw [pollButtons_withPos]
    rfl
  | isPressed role => exact ⟨p, needLifecycle_withPos p p s _ (ite_eq_apply_ite rfl rfl)⟩
  | registryTeardown =>
    refine ⟨p, needLifecycle_withPos p p s _ (Run.finish_withPos (Run.andThen_withPos ?_ fun _ _ => rfl))⟩
    rw [writeAmps_withPos]
    exact ite_eq_apply_ite (teardownDevice_withPos p _) rfl

end

/-- Settles O48: the outcome commutes with replacing the positions. -/
theorem positionsAreNeverRead : Obligations.PositionsAreNeverRead := fun i s t p h => by
  obtain ⟨q, hq⟩ := exec_withPos p s i
  exact ⟨q, hq.trans (by rw [h]; rfl)⟩

end Sys2Proof.Machine

namespace Sys2Proof.Machine

/-! ## The bracketing of the bus, and the DAC before the amps

What the two rules of 70_reset_and_hazards.md R123 and R124 read of the state: the settings below, `TXN_OPEN` and TRACE.
The moves of this part say what an instruction does to these, and leave the rest open. -/

/-- What the shape and the order of the bring-up depend on, besides TRACE. -/
def State.settings (s : State) : Config × Packet × Nat × Lifecycle := (s.cfg, s.ctrlWord, s.count, s.lifecycle)

/-- Where the bus stands between two operations. -/
abbrev State.busPhase (s : State) : BusPhase := if s.txnOpen then .selected 0 else .idle

/-- Events of the given shape, received bytes aside, stand together in the trace. -/
def StandsIn (shape t : List Event) : Prop := ∃ a b c, t = a ++ b ++ c ∧ b.map Event.sent = shape

/-- One part of what an instruction does to TRACE, `TXN_OPEN` and the settings. -/
inductive TraceMove : State → State → Prop
  /-- Events that are bracketed from where the bus stands to where it then stands, an amp up in `Ready` only. -/
  | events {s t : State} {evs : List Event} (ht : t.trace = s.trace ++ evs) (hs : t.settings = s.settings)
      (hb : busPhaseFrom s.cfg.dummyByte s.busPhase evs = some t.busPhase)
      (ha : ∀ k, .amp k true ∈ evs → s.lifecycle = .ready) : TraceMove s t
  /-- `LIFECYCLE` changes: never back to before `Ready`, and to `Ready` only with the DAC brought up. -/
  | lifecycle (s : State) {l : Lifecycle}
      (early : l = .uninitialized ∨ l = .initializing → s.lifecycle = .uninitialized ∨ s.lifecycle = .initializing)
      (ready : l = .ready → StandsIn (bringUpShape s) s.trace) : TraceMove s { s with lifecycle := l }
  /-- The module record of `register`, before `Ready`. -/
  | register (s : State) {count : Nat} {out : List Value16} {pos : List Position32} {led amp : List Bool}
      (hl : s.lifecycle = .uninitialized ∨ s.lifecycle = .initializing) :
      TraceMove s { s with count := count, out := out, pos := pos, led := led, amp := amp }

/-- Some moves. -/
abbrev TraceMoves : State → State → Prop := Relation.ReflTransGen TraceMove

/-! ### What the moves keep -/

section
variable {s t u : State}

/-- What every move keeps, a run of moves keeps. -/
theorem TraceMoves.keeps {P : State → Prop} (hP : ∀ u t, TraceMove u t → P u → P t) (h : TraceMoves s t) (hs : P s) :
    P t := by
  induction h with
  | refl => exact hs
  | tail _ hm ih => exact hP _ _ hm ih

theorem bringUpShape_eq_of_settings (h : t.settings = s.settings) : bringUpShape t = bringUpShape s := by
  simp only [State.settings, Prod.mk.injEq] at h
  obtain ⟨hcfg, hword, hcount, -⟩ := h
  simp only [bringUpShape, hcfg, hword, hcount]

theorem lifecycle_eq_of_settings (h : t.settings = s.settings) : t.lifecycle = s.lifecycle :=
  congrArg (·.2.2.2) h

theorem cfg_eq_of_settings (h : t.settings = s.settings) : t.cfg = s.cfg := congrArg Prod.fst h

/-- What stands in a trace stands in every longer one. -/
theorem StandsIn.append {shape t : List Event} (h : StandsIn shape t) (later : List Event) :
    StandsIn shape (t ++ later) := by
  obtain ⟨a, b, c, rfl, hb⟩ := h
  exact ⟨a, b, c ++ later, by simp, hb⟩

/-- Every move keeps the bracketing: its events start where the trace so far ends. -/
theorem TraceMove.keeps_bracketed (m : TraceMove s t) (h : s.BusBracketed) : t.BusBracketed := by
  cases m with
  | events ht hs hb _ =>
    rw [State.BusBracketed, ht, cfg_eq_of_settings hs, busPhaseFrom_append, h, Option.bind_some, hb]
  | lifecycle _ _ => exact h
  | register _ => exact h

/-- An event of a trace in two parts is in the first, or in the second and comes after all of the first. -/
theorem mem_of_append_eq {old new earlier later : List Event} {e : Event}
    (h : old ++ new = earlier ++ e :: later) :
    (∃ rest, old = earlier ++ e :: rest) ∨ (e ∈ new ∧ ∃ between, earlier = old ++ between) := by
  obtain ⟨between, rfl, rfl⟩ | ⟨_ | ⟨c, cs⟩, rfl, hc⟩ := List.append_eq_append_iff.1 h
  · exact .inr ⟨by simp, between, rfl⟩
  · exact .inr ⟨show e ∈ [] ++ new from hc ▸ List.mem_cons_self, [], by simp⟩
  · obtain ⟨rfl, -⟩ := List.cons.inj hc
    exact .inl ⟨cs, rfl⟩

/-- Events with an amp up only in `Ready` keep the order: in `Ready` the DAC was brought up before them. -/
theorem State.DacBeforeAmps.append {evs : List Event} (h : s.DacBeforeAmps) (ht : t.trace = s.trace ++ evs)
    (hs : t.settings = s.settings) (ha : ∀ k, .amp k true ∈ evs → s.lifecycle = .ready) : t.DacBeforeAmps where
  noneBeforeReady hl k hk := by
    rw [lifecycle_eq_of_settings hs] at hl
    rw [ht, List.mem_append] at hk
    rcases hk with hk | hk
    · exact h.noneBeforeReady hl k hk
    · simp [ha k hk] at hl
  afterBringUp earlier later k he := by
    rw [bringUpShape_eq_of_settings hs]
    obtain ⟨rest, hold⟩ | ⟨hnew, between, rfl⟩ := mem_of_append_eq (ht ▸ he)
    · exact h.afterBringUp earlier rest k hold
    · exact StandsIn.append (h.readyBroughtUp (ha k hnew)) between
  readyBroughtUp hl := by
    rw [lifecycle_eq_of_settings hs] at hl
    rw [ht, bringUpShape_eq_of_settings hs]
    exact StandsIn.append (h.readyBroughtUp hl) evs

/-- Every move keeps the order. -/
theorem TraceMove.keeps_dacBeforeAmps (m : TraceMove s t) (h : s.DacBeforeAmps) : t.DacBeforeAmps := by
  cases m with
  | events ht hs _ ha => exact h.append ht hs ha
  | lifecycle early ready =>
    exact { h with noneBeforeReady := fun hl => h.noneBeforeReady (early hl), readyBroughtUp := ready }
  | register hl =>
    exact { h with
      afterBringUp := fun earlier later k he =>
        absurd (show Event.amp k true ∈ s.trace from he ▸ by simp) (h.noneBeforeReady hl k)
      readyBroughtUp := fun hr => by simp [show s.lifecycle = .ready from hr] at hl }

/-! ### The effects of Laws/Exec.lean as moves -/

/-- Nothing but elements that neither rule reads changes. -/
theorem TraceMove.quiet (ht : t.trace = s.trace) (hs : t.settings = s.settings) (ho : t.txnOpen = s.txnOpen) :
    TraceMove s t :=
  .events (evs := []) (by simpa using ht) hs (by simp [State.busPhase, ho, busPhaseFrom]) (by simp)

theorem traceMoves_answer (s : State) (v : Value) : TraceMoves s (s.answer v) := .single (.quiet rfl rfl rfl)

theorem traceMoves_raise (s : State) (e : Error) : TraceMoves s (s.raise e) := .single (.quiet rfl rfl rfl)

/-- Events that are not on the bus. -/
theorem TraceMove.offBus {evs : List Event} (ht : t.trace = s.trace ++ evs) (hs : t.settings = s.settings)
    (ho : t.txnOpen = s.txnOpen) (he : ∀ e ∈ evs, e.offBus = true)
    (ha : ∀ k, .amp k true ∈ evs → s.lifecycle = .ready) : TraceMove s t := by
  have hp : s.busPhase = .idle ∨ s.busPhase = .selected 0 := by
    unfold State.busPhase
    split <;> simp
  exact .events ht hs (by rw [busPhaseFrom_offBus _ hp he, State.busPhase, State.busPhase, ho]) ha

/-- Bracketed events of which none writes an amp line. -/
theorem TraceMove.bus {evs : List Event} {last : Option Bool} (ht : t.trace = s.trace ++ evs)
    (hs : t.settings = s.settings) (he : BusEvents last (evs.map Event.sent))
    (hb : busPhaseFrom s.cfg.dummyByte s.busPhase (evs.map Event.sent) = some t.busPhase) : TraceMove s t :=
  .events ht hs (busPhaseFrom_sent .. ▸ hb) fun k hk => by cases he.of_sent.noLine _ hk

theorem traceMove_packet {w : Packet} {r0 r1 r2 : Byte} (ho : s.txnOpen = true)
    (ht : t.trace = s.trace ++
      [.exchange (toBytes w).1 r0, .exchange (toBytes w).2.1 r1, .exchange (toBytes w).2.2 r2])
    (hs : t.settings = s.settings) (hto : t.txnOpen = s.txnOpen) : TraceMove s t :=
  .bus ht hs (busEvents_exchanges ..) (by simp only [State.busPhase, hto, ho]; rfl)

theorem Sends.traceMoves {w : Packet} (h : Sends w s t) : TraceMoves s t := by
  rcases h with ⟨ho, r0, r1, r2, bus, tx, rx, rfl⟩ | ⟨-, rfl⟩
  · exact .single (traceMove_packet ho rfl rfl rfl)
  · exact traceMoves_raise _ _

/-- Transactions from outside a transaction. -/
theorem BusDone.traceMove {shape : List Event} (h : BusDone shape s u) (hs : BusEvents (some false) shape)
    (hb : busPhaseFrom s.cfg.dummyByte .idle shape = some .idle) (ho : s.txnOpen = false) : TraceMove s u := by
  obtain ⟨evs, bus, tx, rx, rfl, rfl⟩ := h
  exact .bus rfl rfl hs (by simpa [State.busPhase, ho] using hb)

theorem BusDone.traceMove_transaction {c : Config} {ws : List Packet} (h : BusDone (transactionShape c ws) s u)
    (hc : s.cfg = c) (ho : s.txnOpen = false) : TraceMove s u :=
  h.traceMove (busEvents_transaction _ _) (hc ▸ busPhaseFrom_transaction _ _) ho

theorem busPhaseFrom_bringUp (s : State) :
    busPhaseFrom s.cfg.dummyByte .idle (bringUpShape s) = some .idle := by
  simp only [bringUpShape, busPhaseFrom_append, busPhaseFrom_transaction, Option.bind_some]

theorem DeviceDown.traceMove (h : DeviceDown s u) : TraceMove s u := by
  obtain ⟨evs, bus, tx, rx, rfl, he⟩ := h
  have hs : BusEvents (some false) (evs.map Event.sent) := by
    rw [he]
    split
    · exact busEvents_close.append (busEvents_transaction _ _)
    · exact busEvents_transaction _ _
  have hc : busPhaseFrom s.cfg.dummyByte s.busPhase (if s.txnOpen then closeShape else []) = some .idle := by
    unfold State.busPhase
    cases s.txnOpen <;> rfl
  refine .bus rfl rfl hs ?_
  rw [he, busPhaseFrom_append, hc]
  exact busPhaseFrom_transaction _ _

theorem buttonEvents_offBus (j : Nat) (ms : List Nat) : ∀ e ∈ buttonEvents j ms, e.offBus = true := by
  induction ms generalizing j with
  | nil => simp [buttonEvents]
  | cons m ms ih => simpa [buttonEvents, Event.offBus] using ih (j + 1)

theorem traceMove_writeAmps (s : State) (n : Nat) {b : Bool} (hl : b = true → s.lifecycle = .ready) :
    TraceMove s (s.writeAmps n b) := by
  rw [writeAmps_spec]
  refine .offBus rfl rfl rfl (by simp [Event.offBus]) fun k hk => hl ?_
  obtain ⟨-, -, rfl⟩ := by simpa using hk
  rfl

theorem traceMove_writeLeds (s : State) (n : Nat) (b : Bool) : TraceMove s (s.writeLeds n b) := by
  rw [writeLeds_spec]
  exact .offBus rfl rfl rfl (by simp [Event.offBus]) (by simp)

theorem traceMove_pollButtons (s : State) : TraceMove s (s.pollButtons 0 s.cfg.thresh).2 := by
  obtain ⟨ms, btn, sense, h, -⟩ := pollButtons_frame s.cfg.thresh 0 s
  rw [h]
  exact .offBus rfl rfl rfl (buttonEvents_offBus 0 ms) fun k hk => by
    cases (busEvents_button 0 ms).noLine _ hk

theorem traceMoves_registerAt (hl : s.lifecycle = .uninitialized ∨ s.lifecycle = .initializing) :
    TraceMoves s (registerAt s.count s) :=
  .tail (.single (.offBus (t := s.modInit s.count) rfl rfl rfl (by simp [Event.offBus]) (by simp))) (.register _ hl)

theorem traceMove_stepModules (s : State) (n : Nat) : TraceMove s (s.stepModules n) := by
  obtain ⟨out, pos, stepIn, posIn, evs, h, -, -, he⟩ := stepModules_frame n s
  rw [h]
  refine .offBus rfl rfl rfl (fun e hm => ?_) fun k hk => ?_
  · obtain ⟨i, ⟨v, rfl⟩ | ⟨p, rfl⟩⟩ := he e hm <;> rfl
  · obtain ⟨i, ⟨v, h⟩ | ⟨p, h⟩⟩ := he _ hk <;> cases h

theorem traceMoves_bringUp (hl : s.lifecycle = .uninitialized) : TraceMoves s (bringUp s) := by
  rw [bringUp_spec]
  refine .tail (.single (.lifecycle s (l := .initializing) (fun _ => .inl hl) (by simp))) ?_
  exact .offBus rfl rfl rfl (by simp [Event.offBus]) (by simp)

/-- `initialize` with no transaction open: the amps go up with the DAC brought up. -/
theorem traceMoves_initialize (hl : s.lifecycle = .uninitialized) (ho : s.txnOpen = false)
    (hu : BusDone (bringUpShape s) (bringUp s) u) : TraceMoves s (enableBoard u) := by
  have hdac : TraceMove (bringUp s) u :=
    hu.traceMove (busEvents_bringUp s) (by simpa [bringUp_spec] using busPhaseFrom_bringUp s)
      (by simp [bringUp_spec, ho])
  have hup : StandsIn (bringUpShape u) u.trace := by
    obtain ⟨evs, bus, tx, rx, rfl, he⟩ := hu
    exact ⟨(bringUp s).trace, evs, [], by simp, by simpa [bringUp_spec, bringUpShape] using he⟩
  rw [enableBoard_eq]
  exact ((((traceMoves_bringUp hl).tail hdac).tail (.lifecycle u (l := .ready) (by simp) fun _ => hup)).tail
    (traceMove_writeAmps _ _ fun _ => rfl)).tail (traceMove_writeLeds _ _ _)

/-- `LIFECYCLE` goes to `Shutdown`. -/
theorem traceMove_shutdown (s : State) : TraceMove s { s with lifecycle := .shutdown } :=
  .lifecycle s (by simp) (by simp)

/-- Everything an instruction that answers a next state can have done to TRACE, as moves. -/
theorem exec_traceMoves {i : Instr} (h : exec i s = .next t) : TraceMoves s t := by
  have h := exec_inv h
  cases i with
  | wrctrl f => exact h.2.traceMoves
  | swrst => exact h.2.traceMoves
  | wrupd v => exact h.2.traceMoves
  | sendControlRegister => exact h.2.traceMoves
  | softReset => exact h.2.traceMoves
  | setOutput v => exact h.2.traceMoves
  | buildControlWord f => obtain rfl := h; exact traceMoves_answer _ _
  | encodeSetOutput v => obtain rfl := h; exact traceMoves_answer _ _
  | isPressed role => obtain ⟨-, -, rfl⟩ := h; exact traceMoves_answer _ _
  | transfer w =>
    obtain ⟨-, ⟨ho, r0, r1, r2, bus, rfl⟩ | ⟨-, rfl⟩⟩ := h
    · exact .single (traceMove_packet ho rfl rfl rfl)
    · exact traceMoves_raise _ _
  | deviceTeardown =>
    obtain ⟨-, u, hu, rfl⟩ := h
    exact .head hu.traceMove (traceMoves_answer _ _)
  | openTransaction =>
    obtain ⟨-, ⟨ho, r, bus, tx, rx, rfl⟩ | ⟨-, rfl⟩⟩ := h
    · refine .single (.bus rfl rfl (last := some true) ⟨by simp [Event.isLine, Event.sent], rfl⟩ ?_)
      rw [State.busPhase, ho]
      exact busPhaseFrom_open s.cfg
    · exact traceMoves_raise _ _
  | closeTransaction =>
    obtain ⟨-, ⟨ho, rfl⟩ | ⟨-, rfl⟩⟩ := h
    · exact .single (.bus rfl rfl busEvents_close (by rw [State.busPhase, ho]; rfl))
    · exact traceMoves_raise _ _
  | initializeBoard =>
    obtain ⟨-, hl, ⟨-, rfl⟩ | ⟨ho, u, hu, rfl⟩⟩ := h
    · exact (traceMoves_bringUp hl).trans (traceMoves_raise _ _)
    · exact (traceMoves_initialize hl ho hu).trans (traceMoves_answer _ _)
  | registerModule position =>
    obtain ⟨hl, ⟨-, rfl⟩ | ⟨-, -, rfl⟩⟩ := h
    · exact traceMoves_raise _ _
    · exact (traceMoves_registerAt hl).trans (traceMoves_answer _ _)
  | stepControlCycle =>
    obtain ⟨-, -, ⟨-, rfl⟩ | ⟨ho, u, hu, rfl⟩⟩ := h
    · exact .head (traceMove_stepModules _ _) (traceMoves_raise _ _)
    · exact .head (traceMove_stepModules _ _)
        (.head (hu.traceMove_transaction (by simp) (by simp [ho])) (traceMoves_answer _ _))
  | setOutputs values =>
    have hc : TraceMove s (cacheOutputs values s) := .quiet rfl rfl rfl
    obtain ⟨-, -, ⟨-, rfl⟩ | ⟨-, -, rfl⟩ | ⟨-, ho, u, hu, rfl⟩⟩ := h
    · exact traceMoves_raise _ _
    · exact .head hc (traceMoves_raise _ _)
    · exact .head hc (.head (hu.traceMove_transaction rfl ho) (traceMoves_answer _ _))
  | enableAllAmps =>
    obtain ⟨hl, rfl⟩ := h
    exact .head (traceMove_writeAmps _ _ fun _ => hl) (traceMoves_answer _ _)
  | disableAllAmps =>
    obtain ⟨-, rfl⟩ := h
    exact .head (traceMove_writeAmps _ _ (by simp)) (traceMoves_answer _ _)
  | setLed position lit =>
    obtain ⟨-, ⟨-, rfl⟩ | ⟨-, rfl⟩⟩ := h
    · exact traceMoves_raise _ _
    · exact .single (.offBus (evs := [.led position lit]) rfl rfl rfl (by simp [Event.offBus]) (by simp))
  | readButtons =>
    obtain ⟨-, rfl⟩ := h
    exact .head (traceMove_pollButtons s) (traceMoves_answer _ _)
  | registryTeardown =>
    have ha : TraceMove s (s.writeAmps s.cfg.cap false) := traceMove_writeAmps _ _ (by simp)
    obtain ⟨-, ⟨-, u, hu, rfl⟩ | ⟨-, rfl⟩⟩ := h
    · exact .head ha (.head hu.traceMove (.head (traceMove_shutdown u) (traceMoves_answer _ _)))
    · exact .head ha (.head (traceMove_shutdown _) (traceMoves_answer _ _))

/-- What every move keeps, and the bytes at the host port do not touch, every step keeps. -/
theorem step_keeps_of_traceMoves {P : State → Prop} (port : ∀ s bytes, P s → P { s with hostPort := bytes })
    (hP : ∀ u t, TraceMove u t → P u → P t) (h : step s = .next t) (hs : P s) : P t := by
  obtain ⟨-, rfl⟩ | ⟨i, rest, -, he⟩ := step_inv h
  · exact hs
  · exact (exec_traceMoves he).keeps hP (port s rest hs)

end

/-- Settles O51: every move starts where the bus stands and ends where it then stands. -/
theorem stepKeepsBusBracketed : Obligations.StepKeepsBusBracketed := fun _ _ hs h =>
  step_keeps_of_traceMoves (fun _ _ => id) (fun _ _ m => m.keeps_bracketed) h hs

/-- Settles O52: an amp goes up in `Ready` only, and `Ready` is entered only with the DAC brought up. -/
theorem stepKeepsDacBeforeAmps : Obligations.StepKeepsDacBeforeAmps := fun _ _ hs h =>
  step_keeps_of_traceMoves (fun _ _ hd => { hd with }) (fun _ _ m => m.keeps_dacBeforeAmps) h hs

/-! ## The bits of a frame -/

/-- The bits of a byte of a word leave from the byte's top bit down. -/
theorem bitsMsbFirst_extractLsb' (w : Packet) (k : Nat) :
    bitsMsbFirst (w.extractLsb' k 8) = (List.range 8).map fun j => w.getLsbD (k + (7 - j)) := by
  simp [bitsMsbFirst, List.range_succ]

/-- Settles O9: the three bytes are the slices of the frame, top slice first. -/
theorem frameBitsLeaveMostSignificantFirst : Obligations.FrameBitsLeaveMostSignificantFirst := fun w => by
  simp only [toBytes_eq, bitsMsbFirst_extractLsb']
  rfl

end Sys2Proof.Machine

namespace Sys2Proof.Machine

/-! ## The write-and-update packet -/

/-- The write-and-update packet is the opcode, four zero bits and the value end to end (30_encoding.md R48). -/
theorem encodeSetOutput_eq_append (c : Config) (v : Value16) :
    encodeSetOutput c v = c.opcWriteUpdate ++ 0#4 ++ v := by
  apply BitVec.eq_of_getLsbD_eq
  intro i hi
  simp only [encodeSetOutput, BitVec.getLsbD_or, BitVec.getLsbD_shiftLeft, BitVec.getLsbD_setWidth,
    BitVec.getLsbD_append]
  by_cases hv : i < 16
  · simp [hv, hi, show i < 20 by omega]
  · have hpast : v.getLsbD i = false := v.getLsbD_of_ge i (by omega)
    by_cases hz : i < 20
    · simp [hv, hz, hpast, show i - 16 < 4 by omega]
    · simp [hv, hz, hi, hpast, show ¬ i - 16 < 4 by omega, show i - 16 - 4 = i - 20 by omega,
        show i - 20 < 24 by omega]

/-- Settles O6: the three parts of the packet, read where they were put end to end. -/
theorem setOutputPacketFields : Obligations.SetOutputPacketFields := fun c v => by
  rw [encodeSetOutput_eq_append]
  refine ⟨?_, ?_, ?_⟩
  · exact (upper_part (j := 4) (c.opcWriteUpdate ++ 0#4) v).trans (upper_append c.opcWriteUpdate 0#4)
  · exact (upper_part (j := 0) (c.opcWriteUpdate ++ 0#4) v).trans
      ((lower_append (j := 0) (k := 4) c.opcWriteUpdate 0#4 (by omega)).trans (by simp))
  · exact (lower_append (j := 0) (k := 16) (c.opcWriteUpdate ++ 0#4) v (by omega)).trans (by simp)

/-! ## Calls that send one packet -/

section
variable {s : State}

/-- A call that sends one packet, inside a transaction (42_device_commands.md R78 to R80). -/
theorem sendCall_open (hd : s.devLive = true) (ho : s.txnOpen = true) (w : Packet) :
    ∃ t, needDevice s ((sendOnly w s).andThen fun _ s => .ok .none s).finish = .next t ∧ PacketSent w s t := by
  obtain ⟨r0, r1, r2, bus, hs⟩ := sendOnly_open ho w
  rw [needDevice_live hd, hs]
  exact ⟨_, rfl, r0, r1, r2, bus, _, _, rfl⟩

/-- A call that sends one packet, outside a transaction: the error and no event. -/
theorem sendCall_closed (hd : s.devLive = true) (ho : s.txnOpen = false) (w : Packet) :
    needDevice s ((sendOnly w s).andThen fun _ s => .ok .none s).finish =
      .next (s.raise .preconditionViolation) := by
  rw [needDevice_live hd, sendOnly_closed ho]
  rfl

/-- With values that fit their fields, `WRCTRL` is a call that sends the control packet. -/
theorem exec_wrctrl_of_fits {f : CtrlFields} (hf : f.Fits s.cfg.layout) :
    exec (.wrctrl f) s =
      needDevice s ((sendOnly (buildControlWord s.cfg f) s).andThen fun _ s => .ok .none s).finish := by
  rw [exec, execWrctrl, if_pos ((fieldsTyped_iff f s).2 hf)]

end

/-- Settles O21: each wire packet is a call that sends one packet. -/
theorem wirePacketsAreSent : Obligations.WirePacketsAreSent := fun s hd => by
  constructor <;> intro ho
  · refine ⟨fun f hf => ?_, sendCall_open hd ho _, fun v => sendCall_open hd ho _⟩
    rw [exec_wrctrl_of_fits hf]
    exact sendCall_open hd ho _
  · exact ⟨fun f hf => (exec_wrctrl_of_fits hf).trans (sendCall_closed hd ho _), sendCall_closed hd ho _,
      fun v => sendCall_closed hd ho _⟩

/-! ## Words of the specification -/

/-- Settles O58: the decoder run on each word. -/
theorem specWordsDecode : Obligations.SpecWordsDecode := by
  unfold Obligations.SpecWordsDecode
  decide

end Sys2Proof.Machine

namespace Sys2Proof.Machine

/-! ## The bits of the control word

Under a layout that meets the constraint of 00_scope.md R5, each bit of the control word has one source: the opcode, or
the one field that holds the bit. -/

section
variable {c : Config} {f : CtrlFields}

/-- A bit of the control word comes from the opcode or from some field. -/
theorem buildControlWord_bit (c : Config) (f : CtrlFields) (i : Nat) :
    (buildControlWord c f).getLsbD i = ((c.opcWriteCtrl.setWidth 24 <<< 20).getLsbD i ||
      CtrlField.all.any fun a => (placeField (f.get a) (c.layout.get a)).getLsbD i) := by
  simp [buildControlWord, CtrlField.all, CtrlFields.get, CtrlLayout.get, Bool.or_assoc]

/-- At a place that belongs to no field, no field sets a bit. -/
theorem fields_bit_outside (hf : f.Fits c.layout) {i : Nat} (hi : i < 24)
    (h : ∀ a, i < (c.layout.get a).lsb ∨ (c.layout.get a).lsb + (c.layout.get a).width ≤ i) :
    (CtrlField.all.any fun a => (placeField (f.get a) (c.layout.get a)).getLsbD i) = false := by
  rw [List.any_eq_false]
  intro a _
  simp [placeField_bit_outside (CtrlFields.fits_get hf a) hi (h a)]

/-- A bit inside a field is the bit of the field's value: every other field is elsewhere. -/
theorem buildControlWord_field_bit (hl : c.layout.Wf) (hf : f.Fits c.layout) (a : CtrlField) {j : Nat}
    (hj : j < (c.layout.get a).width) :
    (buildControlWord c f).getLsbD ((c.layout.get a).lsb + j) = (f.get a).getLsbD j := by
  have ha := CtrlLayout.inside_of_wf hl a
  have hin : (placeField (f.get a) (c.layout.get a)).getLsbD ((c.layout.get a).lsb + j) = (f.get a).getLsbD j := by
    rw [placeField_bit _ _ (by omega)]
    simp
  have hout (b : CtrlField) (hb : b ≠ a) :
      (placeField (f.get b) (c.layout.get b)).getLsbD ((c.layout.get a).lsb + j) = false := by
    have hd := CtrlLayout.disjoint_of_wf hl hb
    exact placeField_bit_outside (CtrlFields.fits_get hf b) (by omega) (by omega)
  rw [buildControlWord_payload_bit c f (by omega), Bool.eq_iff_iff, List.any_eq_true, ← hin]
  constructor
  · rintro ⟨b, -, hb⟩
    by_cases hab : b = a
    · exact hab ▸ hb
    · simp [hout b hab] at hb
  · exact fun h => ⟨a, CtrlField.mem_all a, h⟩

/-- Each field reads back from the built word (40_encoder.md R61). -/
theorem extractField_buildControlWord (hl : c.layout.Wf) (hf : f.Fits c.layout) (a : CtrlField) :
    extractField (buildControlWord c f) (c.layout.get a) = (f.get a).setWidth 24 := by
  apply BitVec.eq_of_getLsbD_eq
  intro i hi
  rw [extractField, BitVec.getLsbD_and, BitVec.getLsbD_ushiftRight, BitVec.getLsbD_ofNat,
    Nat.testBit_two_pow_sub_one, BitVec.getLsbD_setWidth]
  by_cases hw : i < (c.layout.get a).width
  · simp [buildControlWord_field_bit hl hf a hw, hw, hi]
  · simp [bit_past_width (CtrlFields.fits_get hf a) (Nat.le_of_not_lt hw), hw]

/-- The top four bits of the control word are the opcode: every field is below them. -/
theorem buildControlWord_opcode (hl : c.layout.Wf) (hf : f.Fits c.layout) :
    (buildControlWord c f).extractLsb' 20 4 = c.opcWriteCtrl := by
  apply BitVec.eq_of_getLsbD_eq
  intro i hi
  have hfields := fields_bit_outside hf (show 20 + i < 24 by omega) fun a =>
    .inr ((CtrlLayout.inside_of_wf hl a).trans (Nat.le_add_right 20 i))
  rw [BitVec.getLsbD_extractLsb', buildControlWord_bit, hfields]
  simp [hi, show 20 + i < 24 by omega]

end

/-- Settles O4: the value of each field, the opcode above all fields, and no source for any other bit. -/
theorem controlWordFieldsRoundTrip : Obligations.ControlWordFieldsRoundTrip := fun c f hl hf => by
  refine ⟨extractField_buildControlWord hl hf, buildControlWord_opcode hl hf, fun i hi hfree => ?_⟩
  rw [buildControlWord_payload_bit c f hi, fields_bit_outside hf (by omega) hfree]

/-! ## The control word as a sum -/

/-- A field put below the bits that `n` may have set adds its value at its place: OR and addition agree
(30_encoding.md R54), and the sum leaves room below the field for the next one. -/
theorem or_placeField_eq_add {w : Packet} {n k : Nat} (hw : w.toNat = n ∧ 2 ^ k ∣ n) {v : Payload} {p : FieldPos}
    (hv : v.toNat < 2 ^ p.width) (hp : p.lsb + p.width ≤ k ∧ k ≤ 24) :
    (w ||| placeField v p).toNat = n + v.toNat * 2 ^ p.lsb ∧ 2 ^ p.lsb ∣ n + v.toNat * 2 ^ p.lsb := by
  obtain ⟨hn, m, rfl⟩ := hw
  obtain ⟨hk, h24⟩ := hp
  have hlt : v.toNat * 2 ^ p.lsb < 2 ^ k :=
    calc v.toNat * 2 ^ p.lsb < 2 ^ p.width * 2 ^ p.lsb := Nat.mul_lt_mul_of_pos_right hv (Nat.two_pow_pos _)
      _ = 2 ^ (p.lsb + p.width) := by rw [Nat.pow_add, Nat.mul_comm]
      _ ≤ 2 ^ k := Nat.pow_le_pow_right (by decide) hk
  have hplace : (placeField v p).toNat = v.toNat * 2 ^ p.lsb := by
    rw [placeField, BitVec.toNat_shiftLeft, BitVec.toNat_setWidth_of_le (by decide), Nat.shiftLeft_eq,
      Nat.mod_eq_of_lt (hlt.trans_le (Nat.pow_le_pow_right (by decide) h24))]
  constructor
  · rw [BitVec.toNat_or, hplace, hn, Nat.two_pow_add_eq_or_of_lt hlt]
  · exact Nat.dvd_add (Nat.dvd_mul_right_of_dvd (Nat.pow_dvd_pow 2 (by omega)) m) (Nat.dvd_mul_left _ _)

/-- Settles O5: from the opcode down, each field is put below all bits set so far. -/
theorem controlWordOfDefaultLayout : Obligations.ControlWordOfDefaultLayout := fun f hf => by
  have hfit := CtrlFields.fits_get hf
  have hopc : ((0x4 : Opcode).setWidth 24 <<< 20).toNat = 0x400000 ∧ 2 ^ 20 ∣ 0x400000 := by decide
  have hcv := or_placeField_eq_add hopc (hfit .cv) (by decide)
  have hovr := or_placeField_eq_add hcv (hfit .ovr) (by decide)
  have hb2c := or_placeField_eq_add hovr (hfit .b2c) (by decide)
  have hets := or_placeField_eq_add hb2c (hfit .ets) (by decide)
  have hiro := or_placeField_eq_add hets (hfit .iro) (by decide)
  have hpv := or_placeField_eq_add hiro (hfit .pv) (by decide)
  obtain ⟨hra, -⟩ := or_placeField_eq_add hpv (hfit .ra) (by decide)
  exact hra.trans (congrArg (_ + ·) (Nat.mul_one _))

/-! ## Packets and bytes -/

/-- Three bytes joined are the bytes end to end (30_encoding.md R46). -/
theorem fromBytes_eq_append (b0 b1 b2 : Byte) : fromBytes b0 b1 b2 = b0 ++ b1 ++ b2 := by
  apply BitVec.eq_of_getLsbD_eq
  intro i hi
  simp only [fromBytes, BitVec.getLsbD_or, BitVec.getLsbD_shiftLeft, BitVec.getLsbD_setWidth,
    BitVec.getLsbD_append]
  by_cases h2 : i < 8
  · simp [h2, hi, show i < 16 by omega]
  · by_cases h1 : i < 16
    · simp [h2, h1, hi, show i - 8 < 8 by omega, show i - 8 < 24 by omega, b2.getLsbD_of_ge i (by omega)]
    · simp [h2, h1, hi, show ¬ i - 8 < 8 by omega, show i - 16 < 24 by omega, show i - 8 - 8 = i - 16 by omega,
        b1.getLsbD_of_ge (i - 8) (by omega), b2.getLsbD_of_ge i (by omega)]

/-- Joining undoes slicing. -/
theorem fromBytes_toBytes (w : Packet) : fromBytes (toBytes w).1 (toBytes w).2.1 (toBytes w).2.2 = w := by
  have hhigh : w.extractLsb' 16 8 ++ w.extractLsb' 8 8 = w.extractLsb' 8 16 := append_adjacent (n := 8) w
  simp only [fromBytes_eq_append, toBytes_eq, hhigh]
  exact append_parts (m := 16) (n := 8) w

/-- Slicing undoes joining. -/
theorem toBytes_fromBytes (b0 b1 b2 : Byte) : toBytes (fromBytes b0 b1 b2) = (b0, b1, b2) := by
  have h : [b0, b1, b2] = bytesU24 (b0 ++ b1 ++ b2) ++ [] := bytes_of_takeU24 rfl
  simp only [bytesU24, List.cons_append, List.nil_append, List.cons.injEq, and_true] at h
  obtain ⟨h0, h1, h2⟩ := h
  rw [fromBytes_eq_append, toBytes_eq, ← h0, ← h1, ← h2]

/-- Settles O8: the two round trips, and both functions as slices and as bytes end to end. -/
theorem byteSlicingRoundTrip : Obligations.ByteSlicingRoundTrip :=
  ⟨fun w => ⟨fromBytes_toBytes w, toBytes_eq w⟩,
    fun b0 b1 b2 => ⟨toBytes_fromBytes b0 b1 b2, fromBytes_eq_append b0 b1 b2⟩⟩

/-- The low two transmit bytes are the low 16 bits of the packet. -/
theorem low_bytes (w : Packet) : (toBytes w).2.1 ++ (toBytes w).2.2 = w.extractLsb' 0 16 := by
  rw [toBytes_eq]
  exact append_adjacent (k := 0) (n := 8) (m := 8) w

/-- Settles O7: the low 16 bits of the packet are the pattern of the value, which `s16` reads back. -/
theorem setOutputRoundTrip : Obligations.SetOutputRoundTrip := fun c v hmin hmax => by
  obtain ⟨-, -, hlow⟩ := setOutputPacketFields c (u16 v)
  rw [low_bytes, decodeSetOutput, hlow, s16_u16 v hmin hmax]
  exact ⟨rfl, rfl⟩

/-! ## The pure calls -/

/-- With values that fit their fields, `buildControlWord` is a call that answers the control word. -/
theorem exec_buildControlWord_of_fits {f : CtrlFields} {s : State} (hf : f.Fits s.cfg.layout) :
    exec (.buildControlWord f) s = .next (s.answer (.packet (buildControlWord s.cfg f))) := by
  rw [exec, execBuildControlWord, if_pos ((fieldsTyped_iff f s).2 hf)]
  rfl

/-- Settles O10: the answer is the control word. -/
theorem buildControlWordAnswersThePacket : Obligations.BuildControlWordAnswersThePacket := fun _ _ hf =>
  exec_buildControlWord_of_fits hf

/-- Settles O11: the call has no premise, and its answer is the write-and-update packet. -/
theorem encodeSetOutputAnswersThePacket : Obligations.EncodeSetOutputAnswersThePacket := fun _ _ => rfl

end Sys2Proof.Machine

namespace Sys2Proof.Machine

/-! ## Calls of the serializer -/

section
variable {s : State}

/-- `transfer` inside a transaction, with the registers as the three exchanges leave them. -/
theorem exec_transfer_open (hd : s.devLive = true) (ho : s.txnOpen = true) (w : Packet) :
    ∃ r0 r1 r2 bus, exec (.transfer w) s = .next { s with
      busIn := bus
      shiftTx := 0
      shiftRx := fromBytes r0 r1 r2
      trace := s.trace ++
        [.exchange (toBytes w).1 r0, .exchange (toBytes w).2.1 r1, .exchange (toBytes w).2.2 r2]
      replies := s.replies ++ [.ok (.echo (fromBytes r0 r1 r2))] } := by
  obtain ⟨r0, r1, r2, bus, ht⟩ := transferPacket_open ho w
  exact ⟨r0, r1, r2, bus, by rw [exec, execTransfer, needDevice_live hd, ht]; rfl⟩

/-- `transfer` outside a transaction. -/
theorem exec_transfer_closed (hd : s.devLive = true) (ho : s.txnOpen = false) (w : Packet) :
    exec (.transfer w) s = .next (s.raise .preconditionViolation) := by
  rw [exec, execTransfer, needDevice_live hd, transferPacket_closed ho]
  rfl

/-- Where the next three answers of the bus peer are scripted, the echo is made of them. -/
theorem exec_transfer_of_script (hd : s.devLive = true) (ho : s.txnOpen = true) (w : Packet) {r0 r1 r2 : Byte}
    {rest : List Byte} (hs : s.busIn.script = r0 :: r1 :: r2 :: rest) :
    ∃ t, exec (.transfer w) s = .next t ∧ t.replies = s.replies ++ [.ok (.echo (fromBytes r0 r1 r2))] ∧
      t.busIn.script = rest := by
  obtain ⟨taken, hb⟩ : ∃ taken, s.busIn = ⟨r0 :: r1 :: r2 :: rest, taken⟩ := ⟨_, by rw [← hs]⟩
  refine ⟨_, by rw [exec, execTransfer, needDevice_live hd, transferPacket, if_pos ho]; rfl, ?_, ?_⟩ <;>
    simp [State.sendPacket, State.loadTx, State.busXfer, Draws.next, hb]

end

/-- Settles O12: `open` by whether a transaction is open. -/
theorem openAppliesModeThenSelects : Obligations.OpenAppliesModeThenSelects := fun s hd => by
  refine ⟨fun ho => ?_, fun ho => ?_⟩
  · obtain ⟨r, bus, tx, rx, h⟩ := openBus_closed ho
    exact ⟨r, bus, tx, rx, by rw [exec, execOpenTransaction, needDevice_live hd, h]; rfl⟩
  · rw [exec, execOpenTransaction, needDevice_live hd, openBus_open ho]
    rfl

/-- Settles O13: `close` by whether a transaction is open. -/
theorem closeDeselectsThenReleasesMode : Obligations.CloseDeselectsThenReleasesMode := fun s hd => by
  refine ⟨fun ho => ?_, fun ho => ?_⟩
  · rw [exec, execCloseTransaction, needDevice_live hd, closeBus_open ho]
    rfl
  · rw [exec, execCloseTransaction, needDevice_live hd, closeBus_closed ho]
    rfl

/-- Settles O14: `transfer` by whether a transaction is open. -/
theorem transferSendsThreeBytes : Obligations.TransferSendsThreeBytes := fun w s hd => by
  refine ⟨fun ho => ?_, fun ho => exec_transfer_closed hd ho w⟩
  obtain ⟨r0, r1, r2, bus, h⟩ := exec_transfer_open hd ho w
  exact ⟨r0, r1, r2, bus, _, _, h⟩

/-- Settles O15: the reset state with a transaction open and a bus peer that is to answer the three bytes of the
value. -/
theorem echoIsFree : Obligations.EchoIsFree := fun w e => by
  obtain ⟨t, ht, hr, -⟩ := exec_transfer_of_script (rest := [])
    (s := { State.reset with txnOpen := true, busIn := ⟨[(toBytes e).1, (toBytes e).2.1, (toBytes e).2.2], 0⟩ })
    rfl rfl w rfl
  exact ⟨_, t, rfl, ht, hr.trans (by rw [fromBytes_toBytes]; rfl)⟩

/-- Settles O16: joining the bytes sent gives the packet. -/
theorem echoingBusReturnsThePacket : Obligations.EchoingBusReturnsThePacket := fun w s rest hd ho hs => by
  simpa only [fromBytes_toBytes] using exec_transfer_of_script hd ho w hs

/-! ## The bit-level shift -/

/-- A part of a shifted word is the part as far below in the word. -/
theorem extractLsb'_shiftLeft (w : Packet) {k n : Nat} (h : k + n + 8 ≤ 24) :
    (w <<< n).extractLsb' (k + n) 8 = w.extractLsb' k 8 := by
  apply BitVec.eq_of_getLsbD_eq
  intro i hi
  rw [BitVec.getLsbD_extractLsb', BitVec.getLsbD_extractLsb', BitVec.getLsbD_shiftLeft,
    show k + n + i - n = k + i by omega]
  simp [hi, show k + n + i < 24 by omega, show ¬ k + n + i < n by omega]

/-- Twenty-four periods: the three bytes of the transmit register leave, and those received fill the receive
register (41_serializer.md R75). -/
theorem clockPeriods_packet (w : Packet) (x : BitVec 24) (r0 r1 r2 : Byte) :
    clockPeriods (bitsMsbFirst r0 ++ bitsMsbFirst r1 ++ bitsMsbFirst r2) ⟨w, x⟩ =
      (bitsMsbFirst (toBytes w).1 ++ bitsMsbFirst (toBytes w).2.1 ++ bitsMsbFirst (toBytes w).2.2,
        ⟨0, fromBytes r0 r1 r2⟩) := by
  have h1 : (w <<< 8).extractLsb' 16 8 = w.extractLsb' 8 8 := extractLsb'_shiftLeft w (k := 8) (by decide)
  have h2 : (w <<< 8 <<< 8).extractLsb' 16 8 = w.extractLsb' 0 8 :=
    (extractLsb'_shiftLeft (w <<< 8) (k := 8) (by decide)).trans (extractLsb'_shiftLeft w (k := 0) (by decide))
  simp only [clockPeriods_append, clockPeriods_byte, shiftRx_fills, shiftTx_empties, toBytes_eq, h1, h2]

/-- Settles O17: both are the packet sent, the echo received, and an empty transmit register. -/
theorem bitLevelShiftRefinesTransfer : Obligations.BitLevelShiftRefinesTransfer := fun w s hd ho => by
  obtain ⟨r0, r1, r2, bus, h⟩ := exec_transfer_open hd ho w
  exact ⟨_, _, _, r0, r1, r2, _, h, rfl, rfl, clockPeriods_packet w s.shiftRx r0 r1 r2⟩

/-! ## Scoped release -/

/-- The end of an operation that opens its own transaction: an answer with none open, or an error with `TXN_OPEN` as it
was. -/
def Released (s t : State) : Prop :=
  ((∃ v, t.replies = s.replies ++ [.ok v]) ∧ t.txnOpen = false ∧ t.sel = false ∧ t.modeOn = false) ∨
  ((∃ e, t.replies = s.replies ++ [.error e]) ∧ t.txnOpen = s.txnOpen)

section
variable {s t u : State}

theorem Released.of_raise (hr : u.replies = s.replies) (ho : u.txnOpen = s.txnOpen) (e : Error) :
    Released s (u.raise e) :=
  .inr ⟨⟨e, by rw [State.raise_replies, hr]⟩, ho⟩

/-- The reply tells which of the two it was. -/
theorem Released.by_reply (h : Released s t) :
    ((∃ v, t.replies = s.replies ++ [.ok v]) → t.txnOpen = false ∧ t.sel = false ∧ t.modeOn = false) ∧
    ((∃ e, t.replies = s.replies ++ [.error e]) → t.txnOpen = s.txnOpen) := by
  rcases h with ⟨⟨v, hv⟩, hclosed⟩ | ⟨⟨e, he⟩, hkept⟩
  · exact ⟨fun _ => hclosed, fun ⟨e, he⟩ => by simp [hv] at he⟩
  · exact ⟨fun ⟨v, hv⟩ => by simp [he] at hv, fun _ => hkept⟩

/-- After transactions the bus is idle, so an answer to the host is a release. -/
theorem BusDone.released {shape : List Event} {r : State} (h : BusDone shape r u) (hr : r.replies = s.replies)
    (ho : r.txnOpen = false) (v : Value) : Released s (u.answer v) := by
  obtain ⟨evs, bus, tx, rx, rfl, -⟩ := h
  exact .inl ⟨⟨v, congrArg (· ++ _) hr⟩, ho, rfl, rfl⟩

end

/-- Settles O47: by what each of the four operations can have done. -/
theorem scopedRelease : Obligations.ScopedRelease := fun i s t h hi => by
  refine Released.by_reply ?_
  have h := exec_inv h
  rcases hi with rfl | rfl | ⟨values, rfl⟩ | rfl
  · obtain ⟨-, -, ⟨-, rfl⟩ | ⟨ho, u, ⟨evs, bus, tx, rx, rfl, -⟩, rfl⟩⟩ := h
    · exact .of_raise (by rw [bringUp_spec]) (by rw [bringUp_spec]) _
    · simp only [bringUp_spec, enableBoard, writeAmps_spec, writeLeds_spec]
      exact .inl ⟨⟨_, rfl⟩, ho, rfl, rfl⟩
  · obtain ⟨_, _, _, _, _, hm, -⟩ := stepModules_frame s.count s
    obtain ⟨-, -, ⟨-, rfl⟩ | ⟨ho, u, hu, rfl⟩⟩ := h
    · exact .of_raise (by rw [hm]) (stepModules_txnOpen _ _) _
    · exact hu.released (by rw [hm]) (by simpa using ho) _
  · obtain ⟨-, -, ⟨-, rfl⟩ | ⟨-, -, rfl⟩ | ⟨-, ho, u, hu, rfl⟩⟩ := h
    · exact .of_raise rfl rfl _
    · exact .of_raise rfl rfl _
    · exact hu.released rfl ho _
  · obtain ⟨-, u, ⟨evs, bus, tx, rx, rfl, -⟩, rfl⟩ := h
    exact .inl ⟨⟨_, rfl⟩, rfl, rfl, rfl⟩

/-! ## Behaviour does not depend on the echo

Whether the echoes a state holds are erased or not before an operation, the state after it is the same with its echoes
erased. Operations off the bus commute with the erasing outright. -/

@[simp] theorem Event.sent_comp_sent : Event.sent ∘ Event.sent = Event.sent := funext Event.sent_sent

/-- A result without the echo. -/
def Value.withoutEcho : Value → Value
  | .echo _ => .echo 0
  | v => v

theorem Reply.withoutEcho_ok (v : Value) : (Reply.ok v).withoutEcho = .ok v.withoutEcho := by cases v <;> rfl

theorem Reply.withoutEcho_withoutEcho (r : Reply) : r.withoutEcho.withoutEcho = r.withoutEcho := by
  rcases r with v | e
  · cases v <;> rfl
  · rfl

@[simp] theorem Reply.withoutEcho_comp_withoutEcho : Reply.withoutEcho ∘ Reply.withoutEcho = Reply.withoutEcho :=
  funext Reply.withoutEcho_withoutEcho

/-- A running operation without the echoes, its value as `erase` leaves it. -/
def Run.withoutEcho {α β : Type} (erase : α → β) : Run α → Run β
  | .ok v s => .ok (erase v) s.withoutEcho
  | .raised e s => .raised e s.withoutEcho

/-- A function of a choice depends only on its values on the two alternatives. -/
theorem apply_ite_congr {α β : Type} {f : α → β} {c : Prop} [Decidable c] {a a' b b' : α} (ha : f a' = f a)
    (hb : f b' = f b) : f (if c then a' else b') = f (if c then a else b) := by
  rw [apply_ite f, apply_ite f, ha, hb]

theorem Run.andThen_withoutEcho {α β γ δ : Type} {ea : α → γ} {eb : β → δ} {r r' : Run α} {f : α → State → Run β}
    (hr : r'.withoutEcho ea = r.withoutEcho ea)
    (hf : ∀ v v' s, ea v' = ea v → (f v' s.withoutEcho).withoutEcho eb = (f v s).withoutEcho eb) :
    (r'.andThen f).withoutEcho eb = (r.andThen f).withoutEcho eb := by
  cases r' with
  | ok v' s' =>
    cases r with
    | ok v s =>
      obtain ⟨hv, hs⟩ := Run.ok.inj hr
      exact (hf v' v' s' rfl).symm.trans (hs ▸ hf v v' s hv)
    | raised e s => cases hr
  | raised e' s' =>
    cases r with
    | ok v s => cases hr
    | raised e s =>
      obtain ⟨rfl, hs⟩ := Run.raised.inj hr
      exact congrArg (Run.raised e') hs

section
variable (s : State)

theorem State.answer_withoutEcho (v : Value) : (s.answer v).withoutEcho = s.withoutEcho.answer v.withoutEcho := by
  simp [State.withoutEcho, State.answer, Reply.withoutEcho_ok]

theorem State.raise_withoutEcho (e : Error) : (s.raise e).withoutEcho = s.withoutEcho.raise e := by
  simp [State.withoutEcho, State.raise, Reply.withoutEcho]

@[simp] theorem State.withoutEcho_withoutEcho : s.withoutEcho.withoutEcho = s.withoutEcho := by
  simp [State.withoutEcho]

theorem enterTransaction_withoutEcho :
    s.withoutEcho.enterTransaction.withoutEcho = s.enterTransaction.withoutEcho := by
  simp [State.enterTransaction, State.withoutEcho, State.busXfer, State.loadTx, State.busMode, State.select, State.emit]

theorem leaveTransaction_withoutEcho :
    s.withoutEcho.leaveTransaction.withoutEcho = s.leaveTransaction.withoutEcho := by
  simp [State.leaveTransaction, State.withoutEcho, State.busMode, State.select, State.emit]

theorem sendPacket_withoutEcho (w : Packet) :
    (s.withoutEcho.sendPacket w).2.withoutEcho = (s.sendPacket w).2.withoutEcho := by
  simp [State.sendPacket, State.withoutEcho, State.busXfer, State.loadTx, State.emit]

theorem openBus_withoutEcho : (openBus s.withoutEcho).withoutEcho id = (openBus s).withoutEcho id :=
  apply_ite_congr (congrArg (Run.raised _) s.withoutEcho_withoutEcho)
    (congrArg (Run.ok ()) (enterTransaction_withoutEcho s))

theorem closeBus_withoutEcho : (closeBus s.withoutEcho).withoutEcho id = (closeBus s).withoutEcho id :=
  apply_ite_congr (congrArg (Run.ok ()) (leaveTransaction_withoutEcho s))
    (congrArg (Run.raised _) s.withoutEcho_withoutEcho)

theorem transferPacket_withoutEcho (w : Packet) :
    (transferPacket w s.withoutEcho).withoutEcho (fun _ => ()) = (transferPacket w s).withoutEcho fun _ => () :=
  apply_ite_congr (congrArg (Run.ok ()) (sendPacket_withoutEcho s w))
    (congrArg (Run.raised _) s.withoutEcho_withoutEcho)

theorem sendOnly_withoutEcho (w : Packet) :
    (sendOnly w s.withoutEcho).withoutEcho id = (sendOnly w s).withoutEcho id :=
  Run.andThen_withoutEcho (transferPacket_withoutEcho s w) fun _ _ s _ =>
    congrArg (Run.ok ()) s.withoutEcho_withoutEcho

theorem sendAll_withoutEcho (ws : List Packet) :
    (sendAll ws s.withoutEcho).withoutEcho id = (sendAll ws s).withoutEcho id := by
  induction ws generalizing s with
  | nil => exact congrArg (Run.ok ()) s.withoutEcho_withoutEcho
  | cons w ws ih => exact Run.andThen_withoutEcho (sendOnly_withoutEcho s w) fun _ _ s _ => ih s

theorem transaction_withoutEcho (ws : List Packet) :
    (transaction ws s.withoutEcho).withoutEcho id = (transaction ws s).withoutEcho id :=
  Run.andThen_withoutEcho (openBus_withoutEcho s) fun _ _ s _ =>
    Run.andThen_withoutEcho (sendAll_withoutEcho s ws) fun _ _ s _ => closeBus_withoutEcho s

theorem teardownDevice_withoutEcho :
    (teardownDevice s.withoutEcho).withoutEcho id = (teardownDevice s).withoutEcho id :=
  Run.andThen_withoutEcho
    (apply_ite_congr (closeBus_withoutEcho s) (congrArg (Run.ok ()) s.withoutEcho_withoutEcho)) fun _ _ s _ =>
    Run.andThen_withoutEcho (transaction_withoutEcho s _) fun _ _ s _ => by
      simp [Run.withoutEcho, State.withoutEcho]

theorem bringUpDac_withoutEcho : (bringUpDac s.withoutEcho).withoutEcho id = (bringUpDac s).withoutEcho id :=
  Run.andThen_withoutEcho (transaction_withoutEcho s _) fun _ _ s _ =>
    Run.andThen_withoutEcho (transaction_withoutEcho s _) fun _ _ s _ => transaction_withoutEcho s _

theorem writeAmps_withoutEcho (n : Nat) (b : Bool) : s.withoutEcho.writeAmps n b = (s.writeAmps n b).withoutEcho := by
  simp [writeAmps_spec, State.withoutEcho, Function.comp_def, Event.sent]

theorem bringUp_withoutEcho : bringUp s.withoutEcho = (bringUp s).withoutEcho := by
  simp [bringUp_spec, State.withoutEcho, Function.comp_def, Event.sent]

theorem enableBoard_withoutEcho : enableBoard s.withoutEcho = (enableBoard s).withoutEcho := by
  simp [enableBoard, writeAmps_spec, writeLeds_spec, State.withoutEcho, Function.comp_def, Event.sent]

theorem registerAt_withoutEcho (k : Nat) : registerAt k s.withoutEcho = (registerAt k s).withoutEcho := by
  simp [registerAt, State.modInit, State.emit, State.withoutEcho, Event.sent]

theorem ledWrite_withoutEcho (k : Nat) (b : Bool) : s.withoutEcho.ledWrite k b = (s.ledWrite k b).withoutEcho := by
  simp [State.ledWrite, State.emit, State.withoutEcho, Event.sent]

theorem stepModules_withoutEcho (n : Nat) : s.withoutEcho.stepModules n = (s.stepModules n).withoutEcho := by
  induction n with
  | zero => rfl
  | succ n ih =>
    rw [stepModules_succ, stepModules_succ, ih]
    simp [State.stepModule, State.modStep, State.modPos, State.emit, State.withoutEcho, Event.sent]

theorem pollButtons_withoutEcho (j : Nat) (thresholds : List Nat) :
    s.withoutEcho.pollButtons j thresholds =
      ((s.pollButtons j thresholds).1, (s.pollButtons j thresholds).2.withoutEcho) := by
  induction thresholds generalizing j s with
  | nil => rfl
  | cons t rest ih =>
    have h := ih { (s.senseButton j).2 with btn := s.btn.set j (decide ((s.senseButton j).1 > t)) } (j + 1)
    have hs : ({ (s.withoutEcho.senseButton j).2 with
        btn := s.btn.set j (decide ((s.senseButton j).1 > t)) } : State) =
        { (s.senseButton j).2 with btn := s.btn.set j (decide ((s.senseButton j).1 > t)) }.withoutEcho := by
      simp [State.senseButton, State.emit, State.withoutEcho, Event.sent]
    exact congrArg (fun later => ((s.senseButton j).1 :: later.1, later.2)) (hs ▸ h)

/-! ### Instructions -/

/-- Erasing the echoes of what an operation comes to is erasing them at its end. -/
theorem outcomeWithoutEcho_finish (r : Run Value) :
    outcomeWithoutEcho r.finish = (r.withoutEcho Value.withoutEcho).finish := by
  cases r with
  | ok v s => exact congrArg Host.Outcome.next (s.answer_withoutEcho v)
  | raised e s => exact congrArg Host.Outcome.next (s.raise_withoutEcho e)

theorem Run.finish_withoutEcho {r r' : Run Value}
    (h : r'.withoutEcho Value.withoutEcho = r.withoutEcho Value.withoutEcho) :
    outcomeWithoutEcho r'.finish = outcomeWithoutEcho r.finish := by
  rw [outcomeWithoutEcho_finish, outcomeWithoutEcho_finish, h]

/-- A call that ends at once, with an answer that does not come from the bus. -/
theorem finish_ok_withoutEcho (v : Value) {s s' : State} (h : s' = s.withoutEcho) :
    outcomeWithoutEcho (Run.ok v s').finish = outcomeWithoutEcho (Run.ok v s).finish :=
  Run.finish_withoutEcho (congrArg (Run.ok _) (h ▸ s.withoutEcho_withoutEcho))

theorem finish_raised_withoutEcho (e : Error) :
    outcomeWithoutEcho (Run.raised e s.withoutEcho).finish = outcomeWithoutEcho (Run.raised e s).finish :=
  Run.finish_withoutEcho (congrArg (Run.raised _) s.withoutEcho_withoutEcho)

theorem needDevice_withoutEcho {run run' : Host.Outcome State Fault Refusal}
    (h : outcomeWithoutEcho run' = outcomeWithoutEcho run) :
    outcomeWithoutEcho (needDevice s.withoutEcho run') = outcomeWithoutEcho (needDevice s run) :=
  apply_ite_congr h rfl

theorem needLifecycle_withoutEcho (ls : List Lifecycle) {run run' : Host.Outcome State Fault Refusal}
    (h : outcomeWithoutEcho run' = outcomeWithoutEcho run) :
    outcomeWithoutEcho (needLifecycle ls s.withoutEcho run') = outcomeWithoutEcho (needLifecycle ls s run) :=
  apply_ite_congr h rfl

/-- A call that discards the value of a running operation. -/
theorem finish_none_withoutEcho {r r' : Run Unit} (h : r'.withoutEcho id = r.withoutEcho id) :
    outcomeWithoutEcho (r'.andThen fun _ s => .ok .none s).finish =
      outcomeWithoutEcho (r.andThen fun _ s => .ok .none s).finish :=
  Run.finish_withoutEcho (Run.andThen_withoutEcho h fun _ _ s _ =>
    congrArg (Run.ok _) s.withoutEcho_withoutEcho)

/-- A call that sends one packet. -/
theorem sendCall_withoutEcho (w : Packet) :
    outcomeWithoutEcho (needDevice s.withoutEcho
        ((sendOnly w s.withoutEcho).andThen fun _ s => .ok .none s).finish) =
      outcomeWithoutEcho (needDevice s ((sendOnly w s).andThen fun _ s => .ok .none s).finish) :=
  needDevice_withoutEcho s (finish_none_withoutEcho (sendOnly_withoutEcho s w))

/-- Whether the echoes so far are erased or not, an instruction has the same outcome but for the echoes. -/
theorem exec_withoutEcho (i : Instr) :
    outcomeWithoutEcho (exec i s.withoutEcho) = outcomeWithoutEcho (exec i s) := by
  cases i with
  | wrctrl f =>
    exact needDevice_withoutEcho s (apply_ite_congr (finish_none_withoutEcho (sendOnly_withoutEcho s _)) rfl)
  | swrst => exact sendCall_withoutEcho s _
  | wrupd v => exact sendCall_withoutEcho s _
  | sendControlRegister => exact sendCall_withoutEcho s _
  | softReset => exact sendCall_withoutEcho s _
  | setOutput v => exact sendCall_withoutEcho s _
  | buildControlWord f => exact apply_ite_congr (finish_ok_withoutEcho _ rfl) rfl
  | encodeSetOutput v => exact finish_ok_withoutEcho _ rfl
  | transfer w =>
    exact needDevice_withoutEcho s (Run.finish_withoutEcho
      (Run.andThen_withoutEcho (transferPacket_withoutEcho s w) fun _ _ s _ =>
        congrArg (Run.ok _) s.withoutEcho_withoutEcho))
  | deviceTeardown => exact needDevice_withoutEcho s (finish_none_withoutEcho (teardownDevice_withoutEcho s))
  | openTransaction => exact needDevice_withoutEcho s (finish_none_withoutEcho (openBus_withoutEcho s))
  | closeTransaction => exact needDevice_withoutEcho s (finish_none_withoutEcho (closeBus_withoutEcho s))
  | initializeBoard =>
    have hb : (bringUpDac (bringUp s.withoutEcho)).withoutEcho id = (bringUpDac (bringUp s)).withoutEcho id := by
      rw [bringUp_withoutEcho, bringUpDac_withoutEcho]
    exact needDevice_withoutEcho s (needLifecycle_withoutEcho s _ (Run.finish_withoutEcho
      (Run.andThen_withoutEcho hb fun _ _ u _ => congrArg (Run.ok _) (by
        rw [enableBoard_withoutEcho, State.withoutEcho_withoutEcho]))))
  | registerModule position =>
    exact needLifecycle_withoutEcho s _ (apply_ite_congr (finish_raised_withoutEcho s _)
      (apply_ite_congr rfl (finish_ok_withoutEcho _ (registerAt_withoutEcho s _))))
  | stepControlCycle =>
    refine needDevice_withoutEcho s (needLifecycle_withoutEcho s _ (finish_none_withoutEcho ?_))
    rw [show s.withoutEcho.stepModules s.withoutEcho.count = _ from stepModules_withoutEcho s s.count]
    exact transaction_withoutEcho _ _
  | setOutputs values =>
    exact needDevice_withoutEcho s (needLifecycle_withoutEcho s _ (apply_ite_congr (finish_raised_withoutEcho s _)
      (finish_none_withoutEcho (transaction_withoutEcho (cacheOutputs values s) _))))
  | enableAllAmps =>
    exact needLifecycle_withoutEcho s _ (finish_ok_withoutEcho _ (writeAmps_withoutEcho s _ _))
  | disableAllAmps =>
    exact needLifecycle_withoutEcho s _ (finish_ok_withoutEcho _ (writeAmps_withoutEcho s _ _))
  | setLed position lit =>
    exact needLifecycle_withoutEcho s _ (apply_ite_congr (finish_raised_withoutEcho s _)
      (finish_ok_withoutEcho _ (ledWrite_withoutEcho s _ _)))
  | readButtons =>
    refine needLifecycle_withoutEcho s _ ?_
    rw [pollButtons_withoutEcho]
    exact finish_ok_withoutEcho _ rfl
  | isPressed role => exact needLifecycle_withoutEcho s _ (apply_ite_congr (finish_ok_withoutEcho _ rfl) rfl)
  | registryTeardown =>
    refine needLifecycle_withoutEcho s _ (Run.finish_withoutEcho (Run.andThen_withoutEcho (ea := id) ?_
      fun _ _ u _ => by simp [Run.withoutEcho, State.withoutEcho]))
    rw [writeAmps_withoutEcho]
    exact apply_ite_congr (teardownDevice_withoutEcho _) (congrArg (Run.ok ()) (State.withoutEcho_withoutEcho _))

end

/-- Settles O49: an outcome, but for the echoes, is that of the state without its echoes, which the two states
share. -/
theorem behaviourIndependentOfEcho : Obligations.BehaviourIndependentOfEcho := fun i s s' h => by
  rw [← exec_withoutEcho s i, h, exec_withoutEcho s' i]

end Sys2Proof.Machine

namespace Sys2Proof.Machine

/-! ## Device commands -/

/-- Settles O18: a call that sends the control word. -/
theorem sendControlRegisterSendsTheControlWord : Obligations.SendControlRegisterSendsTheControlWord := fun _ hd =>
  ⟨fun ho => sendCall_open hd ho _, fun ho => sendCall_closed hd ho _⟩

/-- Settles O19: a call that sends the reset word, which is the packet written out. -/
theorem softResetSendsTheResetWord : Obligations.SoftResetSendsTheResetWord := fun s hd =>
  ⟨fun ho => sendCall_open hd ho (resetWord s.cfg), fun ho => sendCall_closed hd ho _⟩

/-- Settles O20: a call that sends the encoded value. -/
theorem setOutputSendsTheValue : Obligations.SetOutputSendsTheValue := fun _ _ hd =>
  ⟨fun ho => sendCall_open hd ho _, fun ho => sendCall_closed hd ho _⟩

/-- Settles O22: the body of device teardown, which never raises, then the answer. -/
theorem deviceTeardownResetsTheDac : Obligations.DeviceTeardownResetsTheDac := fun s hd => by
  obtain ⟨evs, bus, tx, rx, ht, hevs⟩ := teardownDevice_spec s
  refine ⟨evs, bus, tx, rx, ?_, hevs⟩
  rw [exec, execDeviceTeardown, needDevice_live hd, ht]
  rfl

/-! ## The last packet once the device is gone

The device goes in a teardown, which ends with the reset transaction; with the device gone, no call sends a packet. -/

/-- Events off the bus at the end of a trace add no packet. -/
theorem packets_append_offBus {later : List Event} (h : ∀ e ∈ later, e.offBus = true) (t : List Event) :
    packets (t ++ later) = packets t :=
  congrArg List.flatten (transactionsFrom_append_offBus h none t)

section
variable {i : Instr} {s t u : State}

theorem packets_writeAmps (s : State) (n : Nat) (b : Bool) : packets (s.writeAmps n b).trace = packets s.trace := by
  rw [writeAmps_spec]
  exact packets_append_offBus (by simp [Event.offBus]) _

theorem packets_pollButtons (s : State) (j : Nat) (thresholds : List Nat) :
    packets (s.pollButtons j thresholds).2.trace = packets s.trace := by
  obtain ⟨ms, btn, sense, h, -⟩ := pollButtons_frame thresholds j s
  rw [h]
  exact packets_append_offBus (buttonEvents_offBus j ms) _

/-- With the device gone, a call that is answered sends no packet. -/
theorem exec_packets_of_gone (hd : s.devLive = false) (h : exec i s = .next t) :
    packets t.trace = packets s.trace := by
  have h := exec_inv h
  cases i with
  | buildControlWord f => obtain rfl := h; rfl
  | encodeSetOutput v => obtain rfl := h; rfl
  | isPressed role => obtain ⟨-, -, rfl⟩ := h; rfl
  | registerModule position =>
    obtain ⟨-, ⟨-, rfl⟩ | ⟨-, -, rfl⟩⟩ := h
    · rfl
    · exact packets_append_offBus (later := [.modInit s.count]) (by simp [Event.offBus]) _
  | enableAllAmps => obtain ⟨-, rfl⟩ := h; exact packets_writeAmps _ _ _
  | disableAllAmps => obtain ⟨-, rfl⟩ := h; exact packets_writeAmps _ _ _
  | setLed position lit =>
    obtain ⟨-, ⟨-, rfl⟩ | ⟨-, rfl⟩⟩ := h
    · rfl
    · exact packets_append_offBus (later := [.led position lit]) (by simp [Event.offBus]) _
  | readButtons => obtain ⟨-, rfl⟩ := h; exact packets_pollButtons _ _ _
  | registryTeardown =>
    obtain ⟨-, ⟨hlive, -⟩ | ⟨-, rfl⟩⟩ := h
    · simp [hd] at hlive
    · exact packets_writeAmps _ _ _
  | _ => exact absurd h.1 (by simp [hd])  -- every other call needs the device (43_orchestrator.md R85)

/-- Device teardown leaves the software reset as the last packet. -/
theorem DeviceDown.goneIsReset (h : DeviceDown s u) : u.GoneIsReset := by
  obtain ⟨evs, bus, tx, rx, rfl, hevs⟩ := h
  exact fun _ => packets_append_transaction s.cfg [] _ hevs

/-- A call by which the device goes is a teardown, so it leaves the software reset as the last packet. -/
theorem exec_goneIsReset_of_live (hd : s.devLive = true) (h : exec i s = .next t) : t.GoneIsReset := fun hg => by
  have hi := (deviceIsNeverRevived i s t h).2 (by simp [hd, hg])
  have h := exec_inv h
  rcases hi with rfl | rfl
  · obtain ⟨-, u, hu, rfl⟩ := h
    exact hu.goneIsReset hg
  · obtain ⟨-, ⟨-, u, hu, rfl⟩ | ⟨hgone, -⟩⟩ := h
    · exact hu.goneIsReset hg
    · simp [hd] at hgone

/-- No instruction writes the parameters. -/
theorem exec_cfg (h : exec i s = .next t) : t.cfg = s.cfg :=
  exec_keeps (P := fun t => t.cfg = s.cfg) (fun _ _ m hu => by cases m <;> exact hu) h rfl

theorem exec_keeps_goneIsReset (h : exec i s = .next t) (hs : s.GoneIsReset) : t.GoneIsReset := by
  cases hd : s.devLive with
  | true => exact exec_goneIsReset_of_live hd h
  | false =>
    intro _
    rw [exec_packets_of_gone hd h, exec_cfg h]
    exact hs hd

end

/-- Settles O59: at reset the device is live, and every call keeps the last packet of a device that is gone. -/
theorem stepKeepsGoneIsReset : Obligations.StepKeepsGoneIsReset := by
  refine ⟨fun _ hg => (by cases hg), fun s t hs h => ?_⟩
  obtain ⟨-, rfl⟩ | ⟨i, rest, -, he⟩ := step_inv h
  · exact hs
  · exact exec_keeps_goneIsReset he hs

end Sys2Proof.Machine

namespace Sys2Proof.Machine

/-! ## Admission

Every instruction is a body behind the admission row of its call (43_orchestrator.md R85), and the body is refused
exactly when the operands cannot be written down or `register` is at a position without meaning. -/

/-- The body behind the admission row of instruction `i`, the device column first. -/
def gated (i : Instr) (s : State) (body : Host.Outcome State Fault Refusal) : Host.Outcome State Fault Refusal :=
  if needsDevice i && !s.devLive then .refused .deviceGone
  else if admittedIn i s.lifecycle then body
  else .refused .lifecycleNotAdmitted

section
variable {i : Instr} {s : State}

theorem gated_gone (hn : needsDevice i = true) (hd : s.devLive = false) (body : Host.Outcome State Fault Refusal) :
    gated i s body = .refused .deviceGone := by
  simp [gated, hn, hd]

theorem gated_notAdmitted (hd : needsDevice i = false ∨ s.devLive = true) (hl : admittedIn i s.lifecycle = false)
    (body : Host.Outcome State Fault Refusal) : gated i s body = .refused .lifecycleNotAdmitted := by
  rcases hd with hd | hd <;> simp [gated, hd, hl]

theorem gated_admitted (h : admitted i s = true) (body : Host.Outcome State Fault Refusal) :
    gated i s body = body := by
  rw [admitted, Bool.and_eq_true, Bool.or_eq_true, Bool.not_eq_true'] at h
  obtain ⟨hd | hd, hl⟩ := h <;> simp [gated, hd, hl]

/-- A call that is not admitted is refused, whatever its body. -/
theorem gated_refused (h : admitted i s = false) (body : Host.Outcome State Fault Refusal) :
    ∃ r, gated i s body = .refused r := by
  rw [admitted, Bool.and_eq_false_iff, Bool.or_eq_false_iff, Bool.not_eq_false'] at h
  by_cases hg : needsDevice i = true ∧ s.devLive = false
  · exact ⟨_, gated_gone hg.1 hg.2 body⟩
  · refine ⟨_, gated_notAdmitted ?_ (h.resolve_left hg) body⟩
    cases hn : needsDevice i with
    | false => exact .inl rfl
    | true => exact .inr (by simpa [hn] using hg)

/-- A row without conditions. -/
theorem eq_gated (hn : needsDevice i = false) (ha : ∀ l, admittedIn i l = true)
    (body : Host.Outcome State Fault Refusal) : body = gated i s body := by
  simp [gated, hn, ha]

/-- A row with the device column only. -/
theorem needDevice_eq_gated (hn : needsDevice i = true) (ha : ∀ l, admittedIn i l = true)
    (body : Host.Outcome State Fault Refusal) : needDevice s body = gated i s body := by
  cases hd : s.devLive <;> simp [needDevice, gated, hn, ha, hd]

/-- A row with the lifecycle column only. -/
theorem needLifecycle_eq_gated {ls : List Lifecycle} (hn : needsDevice i = false)
    (ha : ∀ {l}, l ∈ ls ↔ admittedIn i l = true) (body : Host.Outcome State Fault Refusal) :
    needLifecycle ls s body = gated i s body := by
  simp only [needLifecycle, gated, hn, ha, Bool.false_and, Bool.false_eq_true, if_false]

/-- A row with both columns. -/
theorem needBoth_eq_gated {ls : List Lifecycle} (hn : needsDevice i = true)
    (ha : ∀ {l}, l ∈ ls ↔ admittedIn i l = true) (body : Host.Outcome State Fault Refusal) :
    needDevice s (needLifecycle ls s body) = gated i s body := by
  cases hd : s.devLive <;> simp [needDevice, needLifecycle, gated, hn, ha, hd]

/-- The body answers a next state where the operands are given, and is refused otherwise. -/
def AnswersIf (operands : Bool) (body : Host.Outcome State Fault Refusal) : Prop :=
  if operands then ∃ t, body = .next t else ∃ r, body = .refused r

/-- The end of an operation is a next state. -/
theorem answersIf_finish (r : Run Value) : AnswersIf true r.finish := by
  cases r with
  | ok v s => exact ⟨_, rfl⟩
  | raised e s => exact ⟨_, rfl⟩

/-- The operation runs where its operand is typed, and is refused elsewhere. -/
theorem answersIf_ite (operands : Bool) (r : Run Value) (why : Refusal) :
    AnswersIf operands (if operands then r.finish else .refused why) := by
  cases operands with
  | true => exact answersIf_finish r
  | false => exact ⟨why, rfl⟩

/-- Each instruction as its admission row and a body. -/
theorem exec_eq_gated (i : Instr) (s : State) :
    ∃ body, exec i s = gated i s body ∧ AnswersIf (operandsGiven i s) body := by
  have hready {l : Lifecycle} : l ∈ admitsReady ↔ (l == .ready) = true := mem_admitsReady.trans beq_iff_eq.symm
  have hbefore {l : Lifecycle} : l ∈ admitsBeforeShutdown ↔ (l != .shutdown) = true :=
    mem_admitsBeforeShutdown.trans bne_iff_ne.symm
  cases i with
  | buildControlWord f => exact ⟨_, eq_gated rfl (fun _ => rfl) _, answersIf_ite (fieldsTyped f s) _ _⟩
  | encodeSetOutput v =>
    exact ⟨_, eq_gated rfl (fun _ => rfl) _, answersIf_finish (.ok (.packet (encodeSetOutput s.cfg v)) s)⟩
  | wrctrl f => exact ⟨_, needDevice_eq_gated rfl (fun _ => rfl) _, answersIf_ite (fieldsTyped f s) _ _⟩
  | swrst | wrupd _ | transfer _ | sendControlRegister | softReset | setOutput _ | deviceTeardown | openTransaction
  | closeTransaction => exact ⟨_, needDevice_eq_gated rfl (fun _ => rfl) _, answersIf_finish _⟩
  | initializeBoard =>
    exact ⟨_, needBoth_eq_gated rfl (mem_admitsInitialize.trans beq_iff_eq.symm) _, answersIf_finish _⟩
  | stepControlCycle => exact ⟨_, needBoth_eq_gated rfl hready _, answersIf_finish _⟩
  | setOutputs values =>
    refine ⟨_, needBoth_eq_gated rfl hready _, ?_⟩
    split <;> exact answersIf_finish _
  | registerModule position =>
    refine ⟨_, needLifecycle_eq_gated rfl (by simp [mem_admitsRegister, admittedIn]) _, ?_⟩
    by_cases hc : s.count = s.cfg.cap
    · simpa [operandsGiven, hc] using answersIf_finish _
    · by_cases hp : position = s.count
      · simpa [operandsGiven, hc, hp] using answersIf_finish _
      · simp [operandsGiven, hc, hp, AnswersIf]
  | enableAllAmps | readButtons => exact ⟨_, needLifecycle_eq_gated rfl hready _, answersIf_finish _⟩
  | setLed position lit =>
    refine ⟨_, needLifecycle_eq_gated rfl hready _, ?_⟩
    split <;> exact answersIf_finish _
  | isPressed role => exact ⟨_, needLifecycle_eq_gated rfl hready _, answersIf_ite (roleTyped role s) _ _⟩
  | disableAllAmps | registryTeardown => exact ⟨_, needLifecycle_eq_gated rfl hbefore _, answersIf_finish _⟩

end

/-- Settles O37: the two refusals of an admission row. -/
theorem refusalsNameTheAdmissionRow : Obligations.RefusalsNameTheAdmissionRow := fun i s => by
  obtain ⟨body, h, -⟩ := exec_eq_gated i s
  rw [h]
  exact ⟨fun hn hd => gated_gone hn hd body, fun hd hl => gated_notAdmitted hd hl body⟩

/-- Settles O36: by whether the call is admitted, then by whether its body answers. -/
theorem refusedExactlyWhenNotAdmitted : Obligations.RefusedExactlyWhenNotAdmitted := fun i s => by
  obtain ⟨body, h, hb⟩ := exec_eq_gated i s
  rw [h]
  cases ha : admitted i s with
  | false => simpa using gated_refused ha body
  | true =>
    rw [gated_admitted ha]
    cases ho : operandsGiven i s <;> simpa [AnswersIf, ho] using hb

/-- A call that is admitted with its operands given answers a state that its effect describes. -/
theorem exec_effect {i : Instr} {s : State} (hd : needsDevice i = false ∨ s.devLive = true)
    (hl : admittedIn i s.lifecycle = true) (ho : operandsGiven i s = true) :
    ∃ t, exec i s = .next t ∧ ExecEffect i s t := by
  have hadmitted : admitted i s = true := by rcases hd with hd | hd <;> simp [admitted, hd, hl]
  obtain ⟨t, ht⟩ := (refusedExactlyWhenNotAdmitted i s).1 (by rw [hadmitted, ho]; rfl)
  exact ⟨t, ht, exec_inv ht⟩

end Sys2Proof.Machine

namespace Sys2Proof.Machine

/-! ## The registry's lifecycle -/

section
variable {s t u : State}

theorem Sends.lifecycle {w : Packet} (h : Sends w s t) : t.lifecycle = s.lifecycle := by
  obtain ⟨-, r0, r1, r2, bus, tx, rx, rfl⟩ | ⟨-, rfl⟩ := h <;> rfl

theorem BusDone.lifecycle {shape : List Event} (h : BusDone shape s u) : u.lifecycle = s.lifecycle := by
  obtain ⟨evs, bus, tx, rx, rfl, -⟩ := h
  rfl

theorem BusDone.replies {shape : List Event} (h : BusDone shape s u) : u.replies = s.replies := by
  obtain ⟨evs, bus, tx, rx, rfl, -⟩ := h
  rfl

theorem DeviceDown.lifecycle (h : DeviceDown s u) : u.lifecycle = s.lifecycle := by
  obtain ⟨evs, bus, tx, rx, rfl, -⟩ := h
  rfl

@[simp] theorem writeAmps_lifecycle (n : Nat) (b : Bool) (s : State) : (s.writeAmps n b).lifecycle = s.lifecycle := by
  rw [writeAmps_spec]

@[simp] theorem stepModules_lifecycle (n : Nat) (s : State) : (s.stepModules n).lifecycle = s.lifecycle := by
  obtain ⟨_, _, _, _, _, h, _⟩ := stepModules_frame n s
  rw [h]

@[simp] theorem pollButtons_lifecycle (thresholds : List Nat) (j : Nat) (s : State) :
    (s.pollButtons j thresholds).2.lifecycle = s.lifecycle := by
  obtain ⟨_, _, _, h, _⟩ := pollButtons_frame thresholds j s
  rw [h]

@[simp] theorem bringUp_lifecycle (s : State) : (bringUp s).lifecycle = .initializing := by
  rw [bringUp_spec]

@[simp] theorem bringUp_replies (s : State) : (bringUp s).replies = s.replies := by
  rw [bringUp_spec]

@[simp] theorem enableBoard_replies (s : State) : (enableBoard s).replies = s.replies := by
  simp [enableBoard, writeAmps_spec, writeLeds_spec]

end

/-- Settles O42: by cases on what the instruction can have done. -/
theorem lifecycleTransitions : Obligations.LifecycleTransitions := fun i s t h => by
  have h := exec_inv h
  cases i with
  | initializeBoard =>
    obtain ⟨-, hl, ⟨-, rfl⟩ | ⟨-, u, hu, rfl⟩⟩ := h
    · exact .inr (.inl ⟨rfl, hl, .inr (by simp [State.raise])⟩)
    · exact .inr (.inl ⟨rfl, hl, .inl ⟨rfl, by simp [State.answer, hu.replies]⟩⟩)
  | registryTeardown =>
    obtain ⟨hl, ⟨-, u, -, rfl⟩ | ⟨-, rfl⟩⟩ := h
    · exact .inr (.inr ⟨rfl, hl, rfl⟩)
    · exact .inr (.inr ⟨rfl, hl, rfl⟩)
  | wrctrl _ | swrst | wrupd _ | sendControlRegister | softReset | setOutput _ => exact .inl h.2.lifecycle
  | buildControlWord _ | encodeSetOutput _ => obtain rfl := h; exact .inl rfl
  | isPressed _ => obtain ⟨-, -, rfl⟩ := h; exact .inl rfl
  | transfer _ => obtain ⟨-, ⟨-, _, _, _, _, rfl⟩ | ⟨-, rfl⟩⟩ := h <;> exact .inl rfl
  | openTransaction => obtain ⟨-, ⟨-, _, _, _, _, rfl⟩ | ⟨-, rfl⟩⟩ := h <;> exact .inl rfl
  | closeTransaction => obtain ⟨-, ⟨-, rfl⟩ | ⟨-, rfl⟩⟩ := h <;> exact .inl rfl
  | deviceTeardown => obtain ⟨-, u, hu, rfl⟩ := h; exact .inl hu.lifecycle
  | registerModule _ => obtain ⟨-, ⟨-, rfl⟩ | ⟨-, -, rfl⟩⟩ := h <;> exact .inl rfl
  | setLed _ _ => obtain ⟨-, ⟨-, rfl⟩ | ⟨-, rfl⟩⟩ := h <;> exact .inl rfl
  | stepControlCycle =>
    obtain ⟨-, -, ⟨-, rfl⟩ | ⟨-, u, hu, rfl⟩⟩ := h
    · exact .inl (stepModules_lifecycle s.count s)
    · exact .inl (hu.lifecycle.trans (stepModules_lifecycle s.count s))
  | setOutputs _ =>
    obtain ⟨-, -, ⟨-, rfl⟩ | ⟨-, -, rfl⟩ | ⟨-, -, u, hu, rfl⟩⟩ := h
    · exact .inl rfl
    · exact .inl rfl
    · exact .inl hu.lifecycle
  | enableAllAmps | disableAllAmps => obtain ⟨-, rfl⟩ := h; exact .inl (writeAmps_lifecycle _ _ s)
  | readButtons => obtain ⟨-, rfl⟩ := h; exact .inl (pollButtons_lifecycle _ _ s)

/-! ## The registry's calls -/

/-- Settles O23: the full registry, the position `COUNT` and any other position exclude each other. -/
theorem registerAppendsAModule : Obligations.RegisterAppendsAModule := fun position s hl => by
  rw [exec, execRegisterModule, needLifecycle_in (mem_admitsRegister.2 hl)]
  refine ⟨fun hc => ?_, fun hc hp => ?_, fun hc hp => ?_⟩
  · rw [if_pos hc]
    rfl
  · rw [if_neg hc, if_neg (not_not.2 hp)]
    rfl
  · rw [if_neg hc, if_pos hp]

/-- Settles O27: the list too long, a transaction left open, and none open exclude each other. -/
theorem setOutputsSendsTheValues : Obligations.SetOutputsSendsTheValues := fun values s hd hl => by
  obtain ⟨t, ht, -, -, h⟩ := exec_effect (i := .setOutputs values) (.inr hd) (by rw [hl]; rfl) rfl
  obtain ⟨hn, rfl⟩ | ⟨hn, ho, rfl⟩ | ⟨hn, ho, u, ⟨evs, bus, tx, rx, rfl, hevs⟩, rfl⟩ := h
  · exact ⟨fun _ => ht, fun hle => absurd hle (Nat.not_le.2 hn), fun hle => absurd hle (Nat.not_le.2 hn)⟩
  · exact ⟨fun hlt => absurd hlt (Nat.not_lt.2 hn), fun _ _ => ht, fun _ hc => absurd hc (by simp [ho])⟩
  · exact ⟨fun hlt => absurd hlt (Nat.not_lt.2 hn), fun _ hc => absurd hc (by simp [ho]),
      fun _ _ => ⟨evs, bus, tx, rx, ht, hevs⟩⟩

/-- Settles O29: the amp lines, then device teardown where the device is live. -/
theorem registryTeardownDisablesAmpsThenDevice : Obligations.RegistryTeardownDisablesAmpsThenDevice :=
    fun s hl ha => by
  obtain ⟨t, ht, -, h⟩ := exec_effect (i := .registryTeardown) (.inl rfl) (bne_iff_ne.2 hl) rfl
  rw [writeAmps_all ha] at h
  obtain ⟨hd, u, ⟨evs, bus, tx, rx, rfl, hevs⟩, rfl⟩ | ⟨hd, rfl⟩ := h
  · exact ⟨fun _ => ⟨evs, bus, tx, rx, by simpa [State.answer] using ht, hevs⟩, fun hg => absurd hg (by simp [hd])⟩
  · exact ⟨fun hlive => absurd hlive (by simp [hd]), fun _ => ht⟩

/-- The batch of all positions is the packets of all cached values. -/
theorem batchPackets_all {n : Nat} {s : State} (h : s.out.length = n) :
    batchPackets n s = s.out.map (encodeSetOutput s.cfg) := by
  rw [batchPackets, List.take_of_length_le h.le]

/-- Settles O26: the module loop, then the transaction as it finds the bus. -/
theorem stepControlCycleSendsAllOutputs : Obligations.StepControlCycleSendsAllOutputs := fun s hd hl hout hpos => by
  obtain ⟨answers, stepDraws, posDraws, hn, hs⟩ := stepModules_all hout hpos
  obtain ⟨t, ht, -, -, h⟩ := exec_effect (i := .stepControlCycle) (.inr hd) (by rw [hl]; rfl) rfl
  rw [hs, batchPackets_all (by simp [hn])] at h
  refine ⟨answers, stepDraws, posDraws, hn, ?_⟩
  obtain ⟨ho, rfl⟩ | ⟨ho, u, ⟨evs, bus, tx, rx, rfl, hevs⟩, rfl⟩ := h
  · exact ⟨fun hc => absurd hc (by simp [ho]), fun _ => ht⟩
  · refine ⟨fun _ => ⟨evs, bus, tx, rx, by simpa [State.answer] using ht, ?_⟩, fun hc => absurd hc (by simp [ho])⟩
    rw [hevs, List.map_map]
    rfl

/-! ## The packets of the registry's calls -/

theorem moduleEvents_offBus (i : Nat) (answers : List (Value16 × Position32)) :
    ∀ e ∈ moduleEvents i answers, e.offBus = true := by
  induction answers generalizing i with
  | nil => simp [moduleEvents]
  | cons a rest ih => simpa [moduleEvents, Event.offBus] using ih (i + 1)

/-- Events in the shape of one transaction are read back as its packets, behind events off the bus. -/
theorem transactions_of_shape {c : Config} {ws : List Packet} {before evs : List Event}
    (hb : ∀ e ∈ before, e.offBus = true) (h : evs.map Event.sent = transactionShape c ws) :
    transactions (before ++ evs) = [ws] := by
  rw [transactions, transactionsFrom_offBus hb, ← transactionsFrom_sent, h, ← List.append_nil (transactionShape c ws),
    transactionsFrom_transaction]
  rfl

/-- Settles O28: the events of the two calls, read back. -/
theorem oneTransactionPerBatch : Obligations.OneTransactionPerBatch := fun s hd hl ho hout hpos => by
  refine ⟨?_, fun values hn => ?_⟩
  · obtain ⟨answers, _, _, hlen, hclosed, -⟩ := stepControlCycleSendsAllOutputs s hd hl hout hpos
    obtain ⟨evs, bus, tx, rx, hx, hevs⟩ := hclosed ho
    refine ⟨_, _, hx, rfl, by simpa using hlen, ?_⟩
    rw [transactions_of_shape (moduleEvents_offBus 0 answers) hevs, List.map_map]
    rfl
  · obtain ⟨evs, bus, tx, rx, hx, hevs⟩ := (setOutputsSendsTheValues values s hd hl).2.2 hn ho
    exact ⟨_, evs, hx, rfl, transactions_of_shape (before := []) (by simp) hevs⟩

end Sys2Proof.Machine

namespace Sys2Proof.Machine

/-! ## The phases of `initialize`

The events of a successful call are those of phases 1 to 4, the three transactions, and those of phase 8. -/

/-- The events of phases 1 to 4 with `n` modules. -/
def earlyEvents (n : Nat) : List Event := [.gpioUp, .clockUp, .busUp] ++ (List.range n).map Event.modInit

/-- The events of phase 8 with `n` modules. -/
def lineEvents (n : Nat) : List Event :=
  (List.range n).map (fun i => Event.amp i true) ++ (List.range n).map fun i => Event.led i true

theorem earlyEvents_offBus (n : Nat) : ∀ e ∈ earlyEvents n, e.offBus = true := by
  simp [earlyEvents, Event.offBus]

theorem lineEvents_offBus (n : Nat) : ∀ e ∈ lineEvents n, e.offBus = true := by
  simp [lineEvents, Event.offBus, or_imp, forall_and]

theorem enableBoard_trace (s : State) : (enableBoard s).trace = s.trace ++ lineEvents s.count := by
  simp [enableBoard, writeAmps_spec, writeLeds_spec, lineEvents]

/-- Events off the bus receive no byte. -/
theorem map_sent_offBus {t : List Event} (h : ∀ e ∈ t, e.offBus = true) : t.map Event.sent = t := by
  refine (List.map_congr_left fun e he => ?_).trans (List.map_id t)
  cases e with
  | exchange b r => cases h _ he
  | _ => rfl

/-- Settles O24: the phases of `initialize`, with phases 5 to 7 as they find the bus. -/
theorem initializeBringsTheBoardUp : Obligations.InitializeBringsTheBoardUp := fun s hd hl => by
  obtain ⟨t, ht, -, -, h⟩ := exec_effect (i := .initializeBoard) (.inr hd) (by rw [hl]; rfl) rfl
  rw [bringUp_spec] at h
  obtain ⟨ho, rfl⟩ | ⟨ho, u, ⟨evs, bus, tx, rx, rfl, hevs⟩, rfl⟩ := h
  · exact ⟨fun hc => absurd hc (by simp [ho]), fun _ => ht⟩
  · refine ⟨fun _ ha hled => ⟨earlyEvents s.count ++ evs ++ lineEvents s.count, bus, tx, rx, ?_, ?_⟩,
      fun hc => absurd hc (by simp [ho])⟩
    · rw [ht, enableBoard_spec]
      · simp [State.answer, earlyEvents, lineEvents]
      · exact ha
      · exact hled
    · rw [List.map_append, List.map_append, map_sent_offBus (earlyEvents_offBus _), hevs,
        map_sent_offBus (lineEvents_offBus _), earlyEvents, lineEvents, ← List.append_assoc]

/-! ## The DAC before the amps -/

/-- The three transactions of `initialize` are read back, whatever follows them. -/
theorem transactionsFrom_bringUp (s : State) (rest : List Event) :
    transactionsFrom none (bringUpShape s ++ rest) =
      List.replicate (s.cfg.initFanout.packets s.count) (resetWord s.cfg) ::
      List.replicate (s.cfg.initFanout.packets s.count) s.ctrlWord ::
      List.replicate (s.cfg.initFanout.packets s.count) (encodeSetOutput s.cfg 0) :: transactionsFrom none rest := by
  simp only [bringUpShape, List.append_assoc, transactionsFrom_transaction]

/-- Events that write no line are all that stands before the first amp of phase 8. -/
theorem takeWhile_before_amps {p : Event → Bool} (hp : ∀ e, e.isLine = false → p e = true)
    (ha : ∀ i, p (.amp i true) = false) {before : List Event} (hb : ∀ e ∈ before, e.isLine = false) (n : Nat) :
    (before ++ lineEvents n).takeWhile p = before := by
  rw [List.takeWhile_append_of_pos fun e he => hp e (hb e he)]
  cases n with
  | zero => simp [lineEvents]
  | succ n => simp [lineEvents, List.range_succ_eq_map, ha]

/-- Settles O25: only events that write no line stand before the amps, and they end with the three transactions. -/
theorem initializeOrdersDacBeforeAmps : Obligations.InitializeOrdersDacBeforeAmps := fun s hd hl ho => by
  obtain ⟨t, ht, -, -, ⟨hopen, -⟩ | ⟨-, u, hu, rfl⟩⟩ :=
    exec_effect (i := .initializeBoard) (.inr hd) (by rw [hl]; rfl) rfl
  · exact absurd hopen (by simp [ho])
  rw [bringUp_spec] at hu
  obtain ⟨evs, bus, tx, rx, rfl, hevs⟩ := hu
  refine ⟨_, earlyEvents s.count ++ evs ++ lineEvents s.count, ht, ?_, ?_⟩
  · rw [State.answer, enableBoard_trace]
    simp [earlyEvents]
  have hnoLine : ∀ e ∈ earlyEvents s.count ++ evs, e.isLine = false :=
    ((busEvents_modInit s.count).append (.of_sent (hevs ▸ busEvents_bringUp s))).noLine
  have hsent : (earlyEvents s.count ++ evs).map Event.sent = earlyEvents s.count ++ bringUpShape s := by
    rw [List.map_append, map_sent_offBus (earlyEvents_offBus _), hevs]
  have htrans : transactions (earlyEvents s.count ++ evs) = transactionsFrom none (bringUpShape s ++ []) := by
    rw [transactions, ← transactionsFrom_sent, hsent, transactionsFrom_offBus (earlyEvents_offBus _), List.append_nil]
  rw [transactionsFrom_bringUp] at htrans
  intro n sent before
  have hbefore : before = earlyEvents s.count ++ evs := takeWhile_before_amps (fun e he => by
    cases e with
    | amp i b => cases he
    | _ => rfl) (fun _ => rfl) hnoLine s.count
  rw [hbefore]
  refine ⟨?_, htrans, hsent, ?_⟩
  · exact (transactionsFrom_append_offBus (lineEvents_offBus _) none _).trans htrans
  · rw [← busPhaseFrom_sent, hsent, busPhaseFrom_append, busPhaseFrom_offBus _ (.inl rfl) (earlyEvents_offBus _)]
    exact busPhaseFrom_bringUp s

end Sys2Proof.Machine

namespace Sys2Proof.Machine

/-! ## Board lines -/

/-- Settles O31: the amp loop over the registered positions keeps the entries past them. -/
theorem enableAllAmpsWritesRegisteredPositions : Obligations.EnableAllAmpsWritesRegisteredPositions := fun s hl ha => by
  rw [exec, execEnableAllAmps, needLifecycle_in (mem_admitsReady.2 hl), writeAmps_spec, foldl_set_range _ _ _ ha]
  rfl

/-- Settles O32: the amp loop over the whole capacity leaves no entry as it was. -/
theorem disableAllAmpsWritesAllPositions : Obligations.DisableAllAmpsWritesAllPositions := fun s hl ha => by
  rw [exec, execDisableAllAmps, needLifecycle_in (mem_admitsBeforeShutdown.2 hl), writeAmps_all ha]
  rfl

/-- Settles O33: the positions below `COUNT` and those from it on exclude each other. -/
theorem setLedIsBoundsChecked : Obligations.SetLedIsBoundsChecked := fun position lit s hl => by
  rw [exec, execSetLed, needLifecycle_in (mem_admitsReady.2 hl)]
  refine ⟨fun hlt => ?_, fun hle => ?_⟩
  · rw [if_neg (Nat.not_le.2 hlt)]
    rfl
  · rw [if_pos hle]
    rfl

/-! ## Buttons -/

/-- The button loop over all buttons: nothing of the old latches is left (44_board_io.md R99). -/
theorem pollButtons_all {s : State} (h : s.btn.length = s.cfg.nbtn) :
    ∃ (ms : List Nat) (sense : Draws Nat), ms.length = s.cfg.nbtn ∧
      s.pollButtons 0 s.cfg.thresh = (ms, { s with
        senseIn := sense
        btn := List.zipWith (fun m t => decide (m > t)) ms s.cfg.thresh
        trace := s.trace ++ buttonEvents 0 ms }) := by
  have hlen : 0 + s.cfg.thresh.length = s.btn.length := by rw [Nat.zero_add, h, Config.nbtn]
  obtain ⟨ms, sense, hms, hp⟩ := pollButtons_spec s.cfg.thresh 0 s hlen.le
  refine ⟨ms, sense, hms, ?_⟩
  rw [hp, List.drop_of_length_le hlen.ge, List.take_zero, List.nil_append, List.append_nil]

/-- Settles O34: the button loop, then its magnitudes as the answer. -/
theorem readButtonsLatchesThresholds : Obligations.ReadButtonsLatchesThresholds := fun s hl hb => by
  obtain ⟨ms, sense, hms, hp⟩ := pollButtons_all hb
  refine ⟨ms, sense, hms, ?_⟩
  rw [exec, execReadButtons, needLifecycle_in (mem_admitsReady.2 hl), hp]
  rfl

/-- The latch read is the entry of the button (R100). -/
theorem buttonLatch_of_getElem? {role : Nat} {b : Bool} {s : State} (h : s.btn[role]? = some b) :
    buttonLatch role s = b := by
  rw [buttonLatch, List.getD_eq_getElem?_getD, h, Option.getD_some]

/-- Settles O35: the role is typed, so the latch is answered. -/
theorem isPressedAnswersTheLatch : Obligations.IsPressedAnswersTheLatch := fun role b s hl hr hb => by
  rw [exec, execIsPressed, needLifecycle_in (mem_admitsReady.2 hl), if_pos ((roleTyped_iff role s).2 hr),
    buttonLatch_of_getElem? hb]
  rfl

end Sys2Proof.Machine

namespace Sys2Proof.Machine

/-! ## Replies

Which error a call that is not refused raises is a function of the call, `COUNT`, `CAP` and `TXN_OPEN` alone
(60_exceptions.md R105 to R107). The rules on errors are read off this function. -/

/-- The error the call raises, if it raises one. -/
def raisedError (i : Instr) (s : State) : Option Error :=
  match i with
  | .wrctrl _ | .swrst | .wrupd _ | .transfer _ | .sendControlRegister | .softReset | .setOutput _
  | .closeTransaction => if s.txnOpen then none else some .preconditionViolation
  | .openTransaction | .initializeBoard | .stepControlCycle =>
    if s.txnOpen then some .preconditionViolation else none
  | .setOutputs values =>
    if s.count < values.length then some .outOfRange
    else if s.txnOpen then some .preconditionViolation else none
  | .registerModule _ => if s.count = s.cfg.cap then some .capacityExceeded else none
  | .setLed position _ => if s.count ≤ position then some .outOfRange else none
  | .buildControlWord _ | .encodeSetOutput _ | .deviceTeardown | .enableAllAmps | .disableAllAmps | .readButtons
  | .isPressed _ | .registryTeardown => none

/-- The call writes state before its own `open` can raise (R104). -/
def WritesBeforeOpen (i : Instr) : Prop :=
  i = .stepControlCycle ∨ i = .initializeBoard ∨ ∃ values, i = .setOutputs values

/-- How a call ends: with an answer, with an error and nothing else, or with the error of an `open` that comes after
other writes. -/
inductive Ends (i : Instr) (s : State) : State → Prop
  | answered {t : State} {v : Value} (hn : raisedError i s = none) (hr : t.replies = s.replies ++ [.ok v]) : Ends i s t
  | raised {e : Error} (he : raisedError i s = some e) : Ends i s (s.raise e)
  | raisedLate {u : State} (he : raisedError i s = some .preconditionViolation) (hi : WritesBeforeOpen i)
      (hr : u.replies = s.replies) : Ends i s (u.raise .preconditionViolation)

section
variable {i : Instr} {s t u : State} {e : Error}

@[simp] theorem writeAmps_replies (n : Nat) (b : Bool) (s : State) : (s.writeAmps n b).replies = s.replies := by
  rw [writeAmps_spec]

@[simp] theorem stepModules_replies (n : Nat) (s : State) : (s.stepModules n).replies = s.replies := by
  obtain ⟨_, _, _, _, _, h, _⟩ := stepModules_frame n s
  rw [h]

@[simp] theorem pollButtons_replies (thresholds : List Nat) (j : Nat) (s : State) :
    (s.pollButtons j thresholds).2.replies = s.replies := by
  obtain ⟨_, _, _, h, _⟩ := pollButtons_frame thresholds j s
  rw [h]

theorem DeviceDown.replies (h : DeviceDown s u) : u.replies = s.replies := by
  obtain ⟨evs, bus, tx, rx, rfl, -⟩ := h
  rfl

/-- An answer after writes that are no reply. -/
theorem Ends.of_answer {v : Value} (hn : raisedError i s = none) (hr : u.replies = s.replies) :
    Ends i s (u.answer v) :=
  .answered hn (by rw [State.answer_replies, hr])

/-- A transfer with the echo discarded raises exactly where no transaction is open. -/
theorem Sends.ends {w : Packet} (h : Sends w s t)
    (hi : raisedError i s = if s.txnOpen then none else some .preconditionViolation) : Ends i s t := by
  obtain ⟨ho, r0, r1, r2, bus, tx, rx, rfl⟩ | ⟨ho, rfl⟩ := h
  · exact .answered (by rw [hi, if_pos ho]) rfl
  · exact .raised (by simp [hi, ho])

/-- Every call that is not refused ends in one of the three ways. -/
theorem exec_ends (h : exec i s = .next t) : Ends i s t := by
  have h := exec_inv h
  cases i with
  | wrctrl _ | swrst | wrupd _ | sendControlRegister | softReset | setOutput _ => exact h.2.ends rfl
  | buildControlWord _ | encodeSetOutput _ => obtain rfl := h; exact .of_answer rfl rfl
  | isPressed _ => obtain ⟨-, -, rfl⟩ := h; exact .of_answer rfl rfl
  | transfer _ =>
    obtain ⟨-, ⟨ho, _, _, _, _, rfl⟩ | ⟨ho, rfl⟩⟩ := h
    · exact .answered (by simp [raisedError, ho]) rfl
    · exact .raised (by simp [raisedError, ho])
  | closeTransaction =>
    obtain ⟨-, ⟨ho, rfl⟩ | ⟨ho, rfl⟩⟩ := h
    · exact .answered (by simp [raisedError, ho]) rfl
    · exact .raised (by simp [raisedError, ho])
  | openTransaction =>
    obtain ⟨-, ⟨ho, _, _, _, _, rfl⟩ | ⟨ho, rfl⟩⟩ := h
    · exact .answered (by simp [raisedError, ho]) rfl
    · exact .raised (by simp [raisedError, ho])
  | deviceTeardown => obtain ⟨-, u, hu, rfl⟩ := h; exact .of_answer rfl hu.replies
  | initializeBoard =>
    obtain ⟨-, -, ⟨ho, rfl⟩ | ⟨ho, u, hu, rfl⟩⟩ := h
    · exact .raisedLate (by simp [raisedError, ho]) (.inr (.inl rfl)) (bringUp_replies s)
    · exact .of_answer (by simp [raisedError, ho]) (by simp [hu.replies])
  | stepControlCycle =>
    obtain ⟨-, -, ⟨ho, rfl⟩ | ⟨ho, u, hu, rfl⟩⟩ := h
    · exact .raisedLate (by simp [raisedError, ho]) (.inl rfl) (stepModules_replies _ s)
    · exact .of_answer (by simp [raisedError, ho]) (by simp [hu.replies])
  | setOutputs values =>
    obtain ⟨-, -, ⟨hn, rfl⟩ | ⟨hn, ho, rfl⟩ | ⟨hn, ho, u, hu, rfl⟩⟩ := h
    · exact .raised (if_pos hn)
    · exact .raisedLate (by simp [raisedError, Nat.not_lt.2 hn, ho]) (.inr (.inr ⟨values, rfl⟩)) rfl
    · exact .of_answer (by simp [raisedError, Nat.not_lt.2 hn, ho]) hu.replies
  | registerModule _ =>
    obtain ⟨-, ⟨hc, rfl⟩ | ⟨hc, -, rfl⟩⟩ := h
    · exact .raised (if_pos hc)
    · exact .of_answer (if_neg hc) rfl
  | setLed _ _ =>
    obtain ⟨-, ⟨hp, rfl⟩ | ⟨hp, rfl⟩⟩ := h
    · exact .raised (if_pos hp)
    · exact .of_answer (if_neg (Nat.not_le.2 hp)) rfl
  | enableAllAmps | disableAllAmps => obtain ⟨-, rfl⟩ := h; exact .of_answer rfl (writeAmps_replies _ _ s)
  | readButtons => obtain ⟨-, rfl⟩ := h; exact .of_answer rfl (pollButtons_replies _ _ s)
  | registryTeardown =>
    obtain ⟨-, ⟨-, u, hu, rfl⟩ | ⟨-, rfl⟩⟩ := h
    · exact .of_answer rfl (hu.replies.trans (writeAmps_replies _ _ s))
    · exact .of_answer rfl (writeAmps_replies _ _ s)

/-- The error in the reply is the one the call raises. -/
theorem exec_replies_error_iff (h : exec i s = .next t) :
    t.replies = s.replies ++ [.error e] ↔ raisedError i s = some e := by
  cases exec_ends h with
  | answered hn hr => simp [hn, hr]
  | raised he => simp [he]
  | raisedLate he hi hr => simp [he, hr]

/-- `register` alone raises `CapacityExceeded` (R105). -/
theorem raisedError_eq_capacityExceeded_iff :
    raisedError i s = some .capacityExceeded ↔ (∃ position, i = .registerModule position) ∧ s.count = s.cfg.cap := by
  cases i with
  | registerModule position => simp [raisedError]
  | setOutputs values => simp only [raisedError]; split_ifs <;> simp
  | _ => simp [raisedError]

/-- `setLed` and `setOutputs` alone raise `OutOfRange` (R106). -/
theorem raisedError_eq_outOfRange_iff :
    raisedError i s = some .outOfRange ↔
      (∃ position lit, i = .setLed position lit ∧ s.count ≤ position) ∨
      ∃ values, i = .setOutputs values ∧ s.count < values.length := by
  cases i with
  | setLed position lit => simp [raisedError]
  | setOutputs values => simp [raisedError]
  | _ => simp [raisedError]

end

theorem Reply.statusCode_le (r : Reply) : r.statusCode ≤ 3 := by
  cases r with
  | ok v => exact Nat.zero_le 3
  | error e => cases e <;> decide

/-- Settles O38: an answer is one reply, and so is an error. -/
theorem everyCallReturnsOneReply : Obligations.EveryCallReturnsOneReply := fun i s t h => by
  cases exec_ends h with
  | answered hn hr => exact ⟨_, hr, Reply.statusCode_le _⟩
  | raised he => exact ⟨_, State.raise_replies s _, Reply.statusCode_le _⟩
  | raisedLate he hi hr => exact ⟨_, by rw [State.raise_replies, hr], Reply.statusCode_le _⟩

/-- Settles O39: only an `open` inside another call raises after a write. -/
theorem errorsLeaveTheStateUnchanged : Obligations.ErrorsLeaveTheStateUnchanged := fun i s t e h he => by
  have hraised := (exec_replies_error_iff h).1 he
  cases exec_ends h with
  | answered hn hr => simp [hn] at hraised
  | raised he' =>
    obtain rfl := Option.some.inj (he'.symm.trans hraised)
    exact .inr rfl
  | raisedLate he' hi hr => exact .inl ⟨(Option.some.inj (he'.symm.trans hraised)).symm, hi⟩

/-- Settles O40: by the error the call raises. -/
theorem whoRaisesCapacityAndRangeErrors : Obligations.WhoRaisesCapacityAndRangeErrors := fun _ _ _ h =>
  ⟨(exec_replies_error_iff h).trans raisedError_eq_capacityExceeded_iff,
    (exec_replies_error_iff h).trans raisedError_eq_outOfRange_iff⟩

/-- Settles O41: by the error the call raises, call by call. -/
theorem whoRaisesPreconditionViolation : Obligations.WhoRaisesPreconditionViolation := fun i s t h => by
  rw [exec_replies_error_iff h]
  cases i with
  | wrctrl _ | swrst | wrupd _ | transfer _ | sendControlRegister | softReset | setOutput _ | closeTransaction =>
    simp [raisedError]
  | openTransaction | initializeBoard | stepControlCycle => simp [raisedError]
  | setOutputs values =>
    by_cases hn : s.count < values.length
    · simp [raisedError, hn]
    · simp [raisedError, hn, Nat.le_of_not_lt hn]
  | buildControlWord _ | encodeSetOutput _ | deviceTeardown | registerModule _ | enableAllAmps | disableAllAmps
  | setLed _ _ | readButtons | isPressed _ | registryTeardown => simp [raisedError]

end Sys2Proof.Machine

namespace Sys2Proof.Machine

/-! ## The end of a run

Registry teardown leaves nothing on, whether it finds the device live or gone (70_reset_and_hazards.md R132); the last
packet is then the one every call leaves on the wire of a device that is gone. -/

/-- Registry teardown succeeds from every lifecycle but `Shutdown`, and ends the run safely. -/
theorem exec_registryTeardown_safeEnd {s : State} (hs : s.Inv) (hl : s.lifecycle ≠ .shutdown) :
    ∃ t, exec .registryTeardown s = .next t ∧ t.SafeEnd := by
  have hamps : ∀ b ∈ List.replicate s.cfg.cap false, b = false := fun _ => List.eq_of_mem_replicate
  obtain ⟨hlive, hgone⟩ := registryTeardownDisablesAmpsThenDevice s hl hs.ampEntries
  cases hd : s.devLive with
  | true =>
    obtain ⟨_, _, _, _, ht, -⟩ := hlive hd
    exact ⟨_, ht, rfl, rfl, rfl, hamps⟩
  | false => exact ⟨_, hgone hd, rfl, hd, hs.goneIsClosed hd, hamps⟩

/-- Settles O30: the end is safe, so the device is gone, and every call keeps the software reset as the last packet of
a device that is gone. -/
theorem registryTeardownEndsSafely : Obligations.RegistryTeardownEndsSafely := fun s hs hr hl => by
  obtain ⟨t, ht, hsafe⟩ := exec_registryTeardown_safeEnd hs hl
  have hreset : (packets t.trace).getLast? = some (resetWord t.cfg) := exec_keeps_goneIsReset ht hr hsafe.devLive
  exact ⟨t, ht, hsafe, exec_cfg ht ▸ hreset⟩

end Sys2Proof.Machine

namespace Sys2Proof

/-! ## Decode and encode

The bytes of a call: what the decoder reads back from what the encoder writes, and the encoder's bytes of what the
decoder reads (the model's own encoding, logs 5 and 7). The frame of `WRCTRL` is settled field by field of the default
layout (30_encoding.md R50), the other frames by their parts, the operations by their selectors. -/

/-! ### The frame of `WRCTRL` -/

/-- Field values are equal where they agree field by field. -/
theorem CtrlFields.eq_of_get_eq {f g : CtrlFields} (h : ∀ a, f.get a = g.get a) : f = g := by
  obtain ⟨⟩ := f
  obtain ⟨⟩ := g
  simp only [CtrlFields.mk.injEq]
  exact ⟨h .cv, h .ovr, h .b2c, h .ets, h .iro, h .pv, h .ra⟩

/-- The fields that `decodeWrctrl` reads from a packet. -/
def wrctrlFields (w : Packet) : CtrlFields :=
  { cv := (w.extractLsb' 9 2).setWidth 20
    ovr := (w.extractLsb' 8 1).setWidth 20
    b2c := (w.extractLsb' 7 1).setWidth 20
    ets := (w.extractLsb' 6 1).setWidth 20
    iro := (w.extractLsb' 5 1).setWidth 20
    pv := (w.extractLsb' 3 2).setWidth 20
    ra := (w.extractLsb' 0 3).setWidth 20 }

theorem decodeWrctrl_eq (w : Packet) (rest : List Byte) :
    decodeWrctrl w rest =
      if w.extractLsb' 11 9 = 0 then .ok (.wrctrl (wrctrlFields w)) rest else .error (.reservedPayload w) := rfl

/-- A field is read at its place in the default layout. -/
theorem wrctrlFields_get (w : Packet) (a : CtrlField) :
    (wrctrlFields w).get a =
      (w.extractLsb' (CtrlLayout.standard.get a).lsb (CtrlLayout.standard.get a).width).setWidth 20 := by
  cases a <;> rfl

/-- The parts of two vectors end to end are determined by them. -/
theorem append_inj {m n : Nat} {a c : BitVec m} {b d : BitVec n} (h : a ++ b = c ++ d) : a = c ∧ b = d :=
  ⟨by rw [← upper_append a b, h, upper_append],
    by simpa [lower_append] using congrArg (BitVec.extractLsb' 0 n) h⟩

/-- A frame is its opcode, the nine bits above the control fields and the seven fields of the default layout. -/
theorem packet_eq_parts (w : Packet) :
    w.extractLsb' 20 4 ++ w.extractLsb' 11 9 ++ w.extractLsb' 9 2 ++ w.extractLsb' 8 1 ++ w.extractLsb' 7 1 ++
      w.extractLsb' 6 1 ++ w.extractLsb' 5 1 ++ w.extractLsb' 3 2 ++ w.extractLsb' 0 3 = w := by
  rw [append_adjacent (k := 11) (n := 9) (m := 4), append_adjacent (k := 9) (n := 2) (m := 13),
    append_adjacent (k := 8) (n := 1) (m := 15), append_adjacent (k := 7) (n := 1) (m := 16),
    append_adjacent (k := 6) (n := 1) (m := 17), append_adjacent (k := 5) (n := 1) (m := 18),
    append_adjacent (k := 3) (n := 2) (m := 19), append_parts (m := 21) (n := 3)]

/-- The parts of a `WRCTRL` frame: the opcode, nine zeros, and each field at its place in the default layout. -/
theorem wrctrlFrame_parts (f : CtrlFields) :
    (wrctrlFrame f).extractLsb' 20 4 = 4 ∧ (wrctrlFrame f).extractLsb' 11 9 = 0 ∧
    ∀ a, (wrctrlFrame f).extractLsb' (CtrlLayout.standard.get a).lsb (CtrlLayout.standard.get a).width =
      (f.get a).setWidth _ := by
  obtain ⟨h, hra⟩ := append_inj (packet_eq_parts (wrctrlFrame f))
  obtain ⟨h, hpv⟩ := append_inj h
  obtain ⟨h, hiro⟩ := append_inj h
  obtain ⟨h, hets⟩ := append_inj h
  obtain ⟨h, hb2c⟩ := append_inj h
  obtain ⟨h, hovr⟩ := append_inj h
  obtain ⟨h, hcv⟩ := append_inj h
  obtain ⟨hopcode, hzero⟩ := append_inj h
  refine ⟨hopcode, hzero, fun a => ?_⟩
  cases a with
  | cv => exact hcv
  | ovr => exact hovr
  | b2c => exact hb2c
  | ets => exact hets
  | iro => exact hiro
  | pv => exact hpv
  | ra => exact hra

/-- Values that fit are read back from their frame. -/
theorem wrctrlFields_wrctrlFrame {f : CtrlFields} (h : f.Fits .standard) : wrctrlFields (wrctrlFrame f) = f := by
  obtain ⟨-, -, hfields⟩ := wrctrlFrame_parts f
  refine CtrlFields.eq_of_get_eq fun a => BitVec.eq_of_toNat_eq ?_
  have hlt := Machine.CtrlFields.fits_get h a
  rw [wrctrlFields_get, hfields, BitVec.toNat_setWidth, BitVec.toNat_setWidth, Nat.mod_eq_of_lt hlt,
    Nat.mod_eq_of_lt (f.get a).isLt]

/-- What is read from a frame is no wider than its field. -/
theorem wrctrlFields_fits (w : Packet) : (wrctrlFields w).Fits .standard := fun a _ => by
  rw [wrctrlFields_get, BitVec.toNat_setWidth]
  exact (Nat.mod_le _ _).trans_lt (BitVec.isLt _)

/-- A frame with the opcode of `WRCTRL` and nine zeros after it is the frame of the fields read from it. -/
theorem wrctrlFrame_wrctrlFields {w : Packet} (hopcode : w.extractLsb' 20 4 = 4) (hzero : w.extractLsb' 11 9 = 0) :
    wrctrlFrame (wrctrlFields w) = w := by
  conv_rhs => rw [← packet_eq_parts w, hopcode, hzero]
  simp [wrctrlFrame, wrctrlFields]

/-! ### A call by its first byte -/

/-- The opcode of a frame is the high nibble of its first byte. -/
theorem firstByte_opcode (w : Packet) : (w.extractLsb' 16 8).extractLsb' 4 4 = w.extractLsb' 20 4 := by
  apply BitVec.eq_of_getLsbD_eq
  intro i hi
  simp [hi, show 4 + i < 8 by omega, ← Nat.add_assoc]

/-- The bytes of a frame are decoded by its opcode. -/
theorem decode_frame (w : Packet) (rest : List Byte) :
    decode (bytesU24 w ++ rest) =
      if w.extractLsb' 20 4 = 0x4 then decodeWrctrl w rest
      else if w.extractLsb' 20 4 = 0xF then decodeSwrst w rest
      else if w.extractLsb' 20 4 = 0x3 then decodeWrupd w rest
      else decodeOperation (w.extractLsb' 16 8) (w.extractLsb' 8 8 :: w.extractLsb' 0 8 :: rest) := by
  rw [← firstByte_opcode]
  have htake := takeU24_bytes w rest
  simp only [bytesU24, List.cons_append, List.nil_append] at htake ⊢
  simp only [decode, htake, Parsed.andThen_of_ok]

/-- What is decoded is a frame with one of the three opcodes or an operation. -/
theorem decode_inv {bs rest : List Byte} {i : Instr} (h : decode bs = .ok i rest) :
    (∃ w bs', bs = bytesU24 w ++ bs' ∧
      (w.extractLsb' 20 4 = 0x4 ∧ decodeWrctrl w bs' = .ok i rest ∨
        w.extractLsb' 20 4 = 0xF ∧ decodeSwrst w bs' = .ok i rest ∨
        w.extractLsb' 20 4 = 0x3 ∧ decodeWrupd w bs' = .ok i rest)) ∨
    ∃ sel args, bs = sel :: args ∧ decodeOperation sel args = .ok i rest := by
  cases bs with
  | nil => cases h
  | cons sel args =>
    have hframe : ∀ {w bs'}, takeU24 (sel :: args) = .ok w bs' → w.extractLsb' 20 4 = sel.extractLsb' 4 4 :=
      fun htake => by
        obtain ⟨rfl, -⟩ := List.cons.inj (bytes_of_takeU24 htake)
        exact (firstByte_opcode _).symm
    rw [decode] at h
    split_ifs at h with h4 hF h3
    · obtain ⟨w, bs', htake, h⟩ := Parsed.andThen_ok h
      exact .inl ⟨w, bs', bytes_of_takeU24 htake, .inl ⟨(hframe htake).trans h4, h⟩⟩
    · obtain ⟨w, bs', htake, h⟩ := Parsed.andThen_ok h
      exact .inl ⟨w, bs', bytes_of_takeU24 htake, .inr (.inl ⟨(hframe htake).trans hF, h⟩)⟩
    · obtain ⟨w, bs', htake, h⟩ := Parsed.andThen_ok h
      exact .inl ⟨w, bs', bytes_of_takeU24 htake, .inr (.inr ⟨(hframe htake).trans h3, h⟩)⟩
    · exact .inr ⟨sel, args, rfl, h⟩

/-! ### Decoding what was encoded -/

theorem decode_wrctrlFrame {f : CtrlFields} (h : f.Fits .standard) (rest : List Byte) :
    decode (bytesU24 (wrctrlFrame f) ++ rest) = .ok (.wrctrl f) rest := by
  obtain ⟨hopcode, hzero, -⟩ := wrctrlFrame_parts f
  rw [decode_frame, if_pos hopcode, decodeWrctrl_eq, if_pos hzero, wrctrlFields_wrctrlFrame h]

theorem decode_wrupdFrame (v : Value16) (rest : List Byte) :
    decode (bytesU24 (0x30#8 ++ v) ++ rest) = .ok (.wrupd v) rest := by
  have hopcode : (0x30#8 ++ v).extractLsb' 20 4 = 0x3 := upper_part (j := 4) 0x30#8 v
  have hzero : (0x30#8 ++ v).extractLsb' 16 4 = 0 := upper_part (j := 0) 0x30#8 v
  have hv : (0x30#8 ++ v).extractLsb' 0 16 = v := (lower_append (j := 0) (k := 16) 0x30#8 v (by omega)).trans (by simp)
  rw [decode_frame, hopcode, if_neg (by decide), if_neg (by decide), if_pos rfl, decodeWrupd, if_pos hzero, hv]

/-- Settles O56: a frame is decoded by its opcode, an operation by its selector, and each reader of an argument gives
back what its writer wrote. -/
theorem decodeOfEncode : Obligations.DecodeOfEncode := fun i rest hwf => by
  cases i with
  | wrctrl f => exact decode_wrctrlFrame hwf rest
  | swrst => rfl
  | wrupd v => exact decode_wrupdFrame v rest
  | buildControlWord f => exact congrArg (Parsed.map · Instr.buildControlWord) (takeFields_bytes f rest)
  | encodeSetOutput v => exact congrArg (Parsed.map · Instr.encodeSetOutput) (takeU16_bytes v rest)
  | transfer w => exact congrArg (Parsed.map · Instr.transfer) (takeU24_bytes w rest)
  | setOutput v => exact congrArg (Parsed.map · Instr.setOutput) (takeU16_bytes v rest)
  | registerModule p => exact congrArg (Parsed.map · Instr.registerModule) (takeIndex_bytes hwf rest)
  | setOutputs vs => exact congrArg (Parsed.map · Instr.setOutputs) (takeValues_bytes hwf rest)
  | setLed p lit =>
    show (takeIndex (bytesIndex p ++ bytesBool lit ++ rest)).andThen
      (fun p bs => (takeBool bs).map (Instr.setLed p)) = .ok (.setLed p lit) rest
    rw [List.append_assoc, takeIndex_bytes hwf, Parsed.andThen_of_ok, takeBool_bytes, Parsed.map_of_ok]
  | isPressed role => exact congrArg (Parsed.map · Instr.isPressed) (takeIndex_bytes hwf rest)
  | sendControlRegister | softReset | deviceTeardown | openTransaction | closeTransaction => rfl
  | initializeBoard | stepControlCycle | enableAllAmps | disableAllAmps | readButtons | registryTeardown => rfl

/-! ### Encoding what was decoded -/

theorem encode_of_decodeWrctrl {w : Packet} {bs rest : List Byte} {i : Instr} (hopcode : w.extractLsb' 20 4 = 0x4)
    (h : decodeWrctrl w bs = .ok i rest) : WellFormed i ∧ bytesU24 w ++ bs = encode i ++ rest := by
  rw [decodeWrctrl_eq] at h
  split_ifs at h with hzero
  cases h
  exact ⟨wrctrlFields_fits w, by rw [encode, wrctrlFrame_wrctrlFields hopcode hzero]⟩

theorem encode_of_decodeSwrst {w : Packet} {bs rest : List Byte} {i : Instr} (hopcode : w.extractLsb' 20 4 = 0xF)
    (h : decodeSwrst w bs = .ok i rest) : WellFormed i ∧ bytesU24 w ++ bs = encode i ++ rest := by
  unfold decodeSwrst at h
  split_ifs at h with hzero
  cases h
  have hw : w = 0xF00000 := by rw [← append_parts (m := 4) (n := 20) w, hopcode, hzero]; rfl
  exact ⟨trivial, by rw [hw]; rfl⟩

theorem encode_of_decodeWrupd {w : Packet} {bs rest : List Byte} {i : Instr} (hopcode : w.extractLsb' 20 4 = 0x3)
    (h : decodeWrupd w bs = .ok i rest) : WellFormed i ∧ bytesU24 w ++ bs = encode i ++ rest := by
  unfold decodeWrupd at h
  split_ifs at h with hzero
  cases h
  have hhigh : w.extractLsb' 16 8 = 0x30 := by
    rw [← append_adjacent (k := 16) (n := 4) (m := 4), hopcode, hzero]; rfl
  have hw : w = 0x30#8 ++ w.extractLsb' 0 16 :=
    (append_parts (m := 8) (n := 16) w).symm.trans (congrArg (· ++ w.extractLsb' 0 16) hhigh)
  exact ⟨trivial, congrArg (bytesU24 · ++ bs) hw⟩

theorem encode_of_decodeOperation {sel : Byte} {args rest : List Byte} {i : Instr}
    (h : decodeOperation sel args = .ok i rest) : WellFormed i ∧ sel :: args = encode i ++ rest := by
  unfold decodeOperation at h
  rw [show sel = BitVec.ofNat 8 sel.toNat by simp]
  generalize sel.toNat = n at h ⊢
  -- The cases stand in the order of the selectors; those not named have no argument.
  split at h
  case h_1 => obtain ⟨f, hf, rfl⟩ := Parsed.map_ok h; exact ⟨trivial, by rw [bytes_of_takeFields hf]; rfl⟩
  case h_2 | h_6 => obtain ⟨v, hv, rfl⟩ := Parsed.map_ok h; exact ⟨trivial, by rw [bytes_of_takeU16 hv]; rfl⟩
  case h_3 => obtain ⟨w, hw, rfl⟩ := Parsed.map_ok h; exact ⟨trivial, by rw [bytes_of_takeU24 hw]; rfl⟩
  case h_11 | h_18 =>
    obtain ⟨p, hp, rfl⟩ := Parsed.map_ok h
    obtain ⟨hlt, rfl⟩ := bytes_of_takeIndex hp
    exact ⟨hlt, rfl⟩
  case h_13 =>
    obtain ⟨vs, hvs, rfl⟩ := Parsed.map_ok h
    obtain ⟨hlt, rfl⟩ := bytes_of_takeValues hvs
    exact ⟨hlt, rfl⟩
  case h_16 =>
    obtain ⟨p, bs, hp, h⟩ := Parsed.andThen_ok h
    obtain ⟨lit, hlit, rfl⟩ := Parsed.map_ok h
    obtain ⟨hlt, rfl⟩ := bytes_of_takeIndex hp
    exact ⟨hlt, by simp [encode, bytes_of_takeBool hlit]⟩
  case h_20 => cases h
  all_goals cases h; exact ⟨trivial, rfl⟩

/-- Settles O57: by the kind of call that was decoded. -/
theorem encodeOfDecode : Obligations.EncodeOfDecode := fun bs rest i h => by
  obtain ⟨w, bs', rfl, ⟨hopcode, hw⟩ | ⟨hopcode, hw⟩ | ⟨hopcode, hw⟩⟩ | ⟨sel, args, rfl, hop⟩ := decode_inv h
  · exact encode_of_decodeWrctrl hopcode hw
  · exact encode_of_decodeSwrst hopcode hw
  · exact encode_of_decodeWrupd hopcode hw
  · exact encode_of_decodeOperation hop

/-! ### A word of the table -/

/-- The call of a word that decodes is the encoding of the instruction. -/
theorem tableCall_of_decodeTableWord {nbits w : Nat} {i : Instr} (h : decodeTableWord nbits w = some i) :
    WellFormed i ∧ tableCall nbits w = encode i := by
  unfold decodeTableWord at h
  split at h
  case h_1 j rest hdec =>
    cases h
    obtain ⟨hwf, hbytes⟩ := encodeOfDecode _ _ _ hdec
    refine ⟨hwf, ?_⟩
    simp only [tableCall, hdec]
    simp [hbytes]
  case h_2 => cases h

/-- Settles O55: the call placed is the encoding of the instruction, so the decoder reads that instruction and leaves
the port as it was. -/
theorem placedWordRunsNext : Obligations.PlacedWordRunsNext := fun s nbits w i h => by
  obtain ⟨hwf, hcall⟩ := tableCall_of_decodeTableWord h
  have hdec : decode (s.withFetchWord nbits w).hostPort = .ok i s.hostPort := by
    simpa only [Machine.State.withFetchWord, Machine.State.withCall, hcall] using decodeOfEncode i s.hostPort hwf
  exact Machine.stepRunsTheDecodedCall.1 _ i _ hdec

end Sys2Proof
